-- ==== Sys2Proof/Word.lean ====
section
/-! DEFINITION. The widths of the block: the byte of the stream and of the CRC register, the 16-bit length
(00_scope.md R13, rule R7 BYTE_WIDTH, CRC_WIDTH, LEN_WIDTH). Every value is unsigned (R13, R15). -/

namespace Sys2Proof

/-- A byte, `u8` (00_scope.md R13). -/
abbrev Byte := BitVec 8

/-- A 16-bit unsigned value, `u16` (00_scope.md R13). -/
abbrev Half := BitVec 16

end Sys2Proof
end

