-- ==== Sys2Proof/Config.lean ====
section
/-! DEFINITION. The wired constants of 00_scope.md R7, and the one parameter the spec leaves open for the model to
take as an argument (R8): `OVERSIZE_POLICY` of the encoder. `EMIT_PORT` is not modelled (92_eei_decisions.md D12). -/

namespace Sys2Proof

/-- What ENC does with a payload longer than 65535 bytes (42_frame_encoder.md R144). -/
inductive OversizePolicy where
  /-- R141's pseudocode applied as written: the length field wraps modulo 65536. -/
  | wrap
  /-- `encode` is refused. -/
  | reject
  deriving DecidableEq, Repr, Inhabited

namespace Config

/-- HDR0, the first header byte. -/
def hdr0 : Byte := 0x55#8

/-- HDR1, the second header byte. -/
def hdr1 : Byte := 0xAA#8

/-- POLY, the feedback constant XORed in after a shift that moved a 1 out of bit 7. -/
def poly : Byte := 0x07#8

/-- CRC_INIT, the CRC register before the first byte. -/
def crcInit : Byte := 0x00#8

/-- PAYLOAD_MAX, the largest payload length and the number of locations of the buffer (20_memory.md R41). -/
def payloadMax : Nat := 65535

/-- OVERHEAD, the frame bytes that are not payload. -/
def overhead : Nat := 5

/-- OVERSIZE_POLICY (00_scope.md R8, 42_frame_encoder.md R144): open, so an uninterpreted constant.
DESIGN CHOICE, assumption log 4; safe: no proof can see which policy it is. -/
opaque oversizePolicy : OversizePolicy

end Config

end Sys2Proof
end

