-- ==== Sys2Proof/Syntax.lean ====
section
/-! DEFINITION. The operations of the block, one constructor per row of spec/opcode_table.json (30_encoding.md R70,
R71), the control-state tags (10_state.md R22), the port values a step can take (30_encoding.md R68) and the words
that select an operation. -/

namespace Sys2Proof

/-- The control state, seven tags (10_state.md R22, 90_conflicts.md C1). It is the block's program counter
(00_scope.md R9). -/
inductive ControlState where
  | idle
  | awaitFirstHeaderByte
  | awaitSecondHeaderByte
  | awaitLengthHigh
  | awaitLengthLow
  | accumulatingPayload
  | awaitChecksum
  deriving DecidableEq, Repr

/-- The operations, in the order of spec/opcode_table.json. An operand `b` is the input byte of the step where the
row leaves it open. -/
inductive Instr where
  /-- IDLE.HIT (41_frame_decoder.md R102). -/
  | idleHit
  /-- IDLE.MISS (R103). -/
  | idleMiss (b : Byte)
  /-- H1.HIT (R104). -/
  | h1Hit
  /-- H1.MISS (R105). -/
  | h1Miss (b : Byte)
  /-- H2.HIT (R106). -/
  | h2Hit
  /-- H2.MISS (R107). -/
  | h2Miss (b : Byte)
  /-- LENH (R108). -/
  | lenh (b : Byte)
  /-- LENL.NZ (R109). -/
  | lenlNz (b : Byte)
  /-- LENL.Z (R110). -/
  | lenlZ
  /-- PAY.MORE (R111). -/
  | payMore (b : Byte)
  /-- PAY.LAST (R112). -/
  | payLast (b : Byte)
  /-- CK.OK (R113). -/
  | ckOk (b : Byte)
  /-- CK.BAD (R114). -/
  | ckBad (b : Byte)
  /-- RESET (70_reset_and_hazards.md R170). -/
  | reset
  /-- DEC.HOLD (41_frame_decoder.md R128). -/
  | decHold
  /-- CRC.CLR (40_crc_engine.md R83). -/
  | crcClr
  /-- CRC.BYTE (R82); `din` is `crc_din`. -/
  | crcByte (din : Byte)
  /-- CRC.HOLD (R84). -/
  | crcHold
  /-- CRC.BIT (R81): no encoding. -/
  | crcBit
  /-- CRC.COMPUTE (R85): no encoding. -/
  | crcCompute (bytes : List Byte)
  /-- ENCODE (42_frame_encoder.md R141): no encoding, outside the hardware. -/
  | encodeFrame (payload : List Byte)
  deriving DecidableEq, Repr

/-- The port values that the environment gives one step (30_encoding.md R68): the top-level ports. It drives no others
(00_scope.md R10): `crc_clr`, `crc_en` and `crc_din` are internal to the block, and DEC drives them. -/
structure Stimulus where top ::
  rst : Bool
  inValid : Bool
  inByte : Byte
  deriving DecidableEq, Repr

/-- The values of ENG's command ports (30_encoding.md R68). DEC drives them inside its operations, or, where ENG is used
alone, its user does (assumption log 9). -/
structure EngPorts where
  crcClr : Bool
  crcEn : Bool
  crcDin : Byte
  deriving DecidableEq, Repr

/-- The word that selects an operation (30_encoding.md R70, R71): the key `state ++ in_byte`, the pair
`{rst, in_valid}`, or the pair `{crc_clr, crc_en}` with its operand beside it. -/
inductive OpWord where
  | dec (key : BitVec 11)
  | top (key : BitVec 2)
  | eng (key : BitVec 2) (din : Byte)
  deriving DecidableEq, Repr

/-- The label of a step (60_exceptions.md R154): an annotation for stating claims, neither output nor state. -/
inductive Label where
  | none
  | headerMismatch
  | checksumMismatch
  | emit
  deriving DecidableEq, Repr

end Sys2Proof
end

