-- ==== Sys2Proof/Machine/Flags.lean ====
section
/-! DEFINITION. The block stores no flag, condition code or status bit (10_state.md R28). What selects an operation is
a comparison made in the step itself and not stored: the "further condition" column of 30_encoding.md R70. The label
of an operation (60_exceptions.md R154) is here too: a function of the operation, not state. -/

namespace Sys2Proof.Machine

/-- LENL.NZ: `lengthHighByte != 0 or in_byte != 0` (41_frame_decoder.md R109). -/
def lengthNonZero (lengthHighByte b : Byte) : Bool := lengthHighByte != 0#8 || b != 0#8

/-- LENL.Z: `lengthHighByte == 0`, with the byte 0x00 (R110). -/
def lengthZero (lengthHighByte : Byte) : Bool := lengthHighByte == 0#8

/-- PAY.MORE: `payloadCount + 1 < expectedLength`, evaluated without wrapping (R111, 00_scope.md R15). -/
def morePayload (payloadCount expectedLength : Half) : Bool :=
  decide (payloadCount.toNat + 1 < expectedLength.toNat)

/-- PAY.LAST: `payloadCount + 1 == expectedLength`, evaluated without wrapping (R112). -/
def lastPayload (payloadCount expectedLength : Half) : Bool :=
  decide (payloadCount.toNat + 1 = expectedLength.toNat)

/-- CK.OK: the byte equals the check value, in its hardware form the running register (R113, R116;
92_eei_decisions.md D7; assumption log 8). -/
def checksumMatches (b crc : Byte) : Bool := b == crc

/-- The label of the step that performs the operation (60_exceptions.md R154). -/
def labelOf : Instr → Label
  | .idleHit => .none
  | .idleMiss _ => .none
  | .h1Hit => .none
  | .h1Miss _ => .none
  | .h2Hit => .none
  | .h2Miss _ => .headerMismatch
  | .lenh _ => .none
  | .lenlNz _ => .none
  | .lenlZ => .none
  | .payMore _ => .none
  | .payLast _ => .none
  | .ckOk _ => .emit
  | .ckBad _ => .checksumMismatch
  | .reset => .none
  | .decHold => .none
  | .crcClr => .none
  | .crcByte _ => .none
  | .crcHold => .none
  | .crcBit => .none
  | .crcCompute _ => .none
  | .encodeFrame _ => .none

end Sys2Proof.Machine
end

