-- ==== Sys2Proof/Machine/Operands.lean ====
section
/-! DEFINITION. The operand forms of the block: the 16-bit length assembled from two bytes and split into them,
big-endian (20_memory.md R45, 30_encoding.md R66), the 3-bit code of a control state (R69), and the 11-bit decode key
`state ++ in_byte` with its two parts (R70). There is no other operand form. -/

namespace Sys2Proof.Machine

/-- `(lengthHighByte << 8) | lengthLowByte`, both bytes zero-extended (30_encoding.md R66). -/
def assembleLength (high low : Byte) : Half :=
  (high.zeroExtend 16 <<< 8) ||| low.zeroExtend 16

/-- `L[15:8]`. -/
def lengthHigh (len : Half) : Byte := len.extractLsb' 8 8

/-- `L[7:0]`. -/
def lengthLow (len : Half) : Byte := len.extractLsb' 0 8

/-- The four bytes before the payload: the header constants and the halves of the length, high first
(41_frame_decoder.md R115, 30_encoding.md R60). -/
def frameHead (len : Half) : List Byte := [Config.hdr0, Config.hdr1, lengthHigh len, lengthLow len]

/-- The code of a control state (30_encoding.md R69). -/
def stateCode : ControlState → BitVec 3
  | .idle => 0#3
  | .awaitFirstHeaderByte => 1#3
  | .awaitSecondHeaderByte => 2#3
  | .awaitLengthHigh => 3#3
  | .awaitLengthLow => 4#3
  | .accumulatingPayload => 5#3
  | .awaitChecksum => 6#3

/-- The control state a code stands for; code 7 is reserved and stands for none (30_encoding.md R69, R73). -/
def stateOfCode (code : BitVec 3) : Option ControlState :=
  if code = 0#3 then some .idle
  else if code = 1#3 then some .awaitFirstHeaderByte
  else if code = 2#3 then some .awaitSecondHeaderByte
  else if code = 3#3 then some .awaitLengthHigh
  else if code = 4#3 then some .awaitLengthLow
  else if code = 5#3 then some .accumulatingPayload
  else if code = 6#3 then some .awaitChecksum
  else none

/-- The decode key `K = state[2:0] ++ in_byte[7:0]` (30_encoding.md R70). -/
def decodeKey (st : ControlState) (b : Byte) : BitVec 11 := stateCode st ++ b

/-- `K[10:8]`. -/
def keyState (key : BitVec 11) : BitVec 3 := key.extractLsb' 8 3

/-- `K[7:0]`. -/
def keyByte (key : BitVec 11) : Byte := key.extractLsb' 0 8

/-- A pair of one-bit ports read as a number, the first name most significant (30_encoding.md R71). -/
def portPair (first second : Bool) : BitVec 2 := BitVec.ofBool first ++ BitVec.ofBool second

end Sys2Proof.Machine
end

