-- ==== Sys2Proof/WellFormed.lean ====
section
/-! DEFINITION. The operand values each operation admits: what its row of 30_encoding.md R70 says of the byte, and
ENC's input constraint (42_frame_encoder.md R144). Conditions on registers are not checked here but where an
operation is selected. -/

namespace Sys2Proof

/-- Why an operation is ill formed. -/
inductive IllFormed where
  /-- IDLE.MISS or H1.MISS with the byte 0x55 (41_frame_decoder.md R103, R105). -/
  | missIsFirstHeaderByte
  /-- H2.MISS with the byte 0xAA (R107). -/
  | missIsSecondHeaderByte
  /-- ENCODE of more than 65535 bytes (42_frame_encoder.md R144). -/
  | payloadTooLong
  deriving DecidableEq, Repr

/-- The first check the operation fails, if any. -/
def illFormed? : Instr → Option IllFormed
  | .idleHit => none
  | .idleMiss b => if b = Config.hdr0 then some .missIsFirstHeaderByte else none
  | .h1Hit => none
  | .h1Miss b => if b = Config.hdr0 then some .missIsFirstHeaderByte else none
  | .h2Hit => none
  | .h2Miss b => if b = Config.hdr1 then some .missIsSecondHeaderByte else none
  | .lenh _ => none
  | .lenlNz _ => none
  | .lenlZ => none
  | .payMore _ => none
  | .payLast _ => none
  | .ckOk _ => none
  | .ckBad _ => none
  | .reset => none
  | .decHold => none
  | .crcClr => none
  | .crcByte _ => none
  | .crcHold => none
  | .crcBit => none
  | .crcCompute _ => none
  | .encodeFrame payload => if payload.length ≤ Config.payloadMax then none else some .payloadTooLong

/-- The operation passes every check. -/
abbrev WellFormed (i : Instr) : Prop := illFormed? i = none

end Sys2Proof
end

