-- ==== Sys2Proof/Decode.lean ====
section
/-! DEFINITION. The decoder and the encoder, from the operation map of 30_encoding.md R70 and R71. The decoder is total
on words and rejects by name. A DEC row applies when `(K & mask) == match` and its further condition holds; the
registers that the conditions read are the decoder's context. -/

namespace Sys2Proof

open Sys2Proof.Machine

/-- The registers that the further conditions of R70 read. -/
structure DecodeContext where
  lengthHighByte : Byte
  expectedLength : Half
  payloadCount : Half
  crc : Byte
  deriving DecidableEq, Repr

/-- Why a word selects no operation. -/
inductive DecodeError where
  /-- The key's state field is 7, which is reserved (30_encoding.md R73a). -/
  | reservedStateCode
  /-- No row's condition holds: AccumulatingPayload with `payloadCount >= expectedLength` (R73b). -/
  | noRow
  /-- The pair `{rst, in_valid}` = 01 is `consume`: the key of R70 selects the operation, not the pair alone. -/
  | consumeNeedsKey
  deriving DecidableEq, Repr

/-- A row of the operation map R70: the pattern and mask of the key, the conditions on the byte and on the registers,
and the operation it selects. -/
structure KeyRow where
  pattern : BitVec 11
  mask : BitVec 11
  onByte : Byte → Bool
  onRegs : DecodeContext → Byte → Bool
  instr : Byte → Instr

/-- The table of 30_encoding.md R70, in its order. -/
def keyRows : List KeyRow :=
  [ ⟨0x055#11, 0x7FF#11, fun _ => true, fun _ _ => true, fun _ => .idleHit⟩,
    ⟨0x000#11, 0x700#11, fun b => b != Config.hdr0, fun _ _ => true, .idleMiss⟩,
    ⟨0x155#11, 0x7FF#11, fun _ => true, fun _ _ => true, fun _ => .h1Hit⟩,
    ⟨0x100#11, 0x700#11, fun b => b != Config.hdr0, fun _ _ => true, .h1Miss⟩,
    ⟨0x2AA#11, 0x7FF#11, fun _ => true, fun _ _ => true, fun _ => .h2Hit⟩,
    ⟨0x200#11, 0x700#11, fun b => b != Config.hdr1, fun _ _ => true, .h2Miss⟩,
    ⟨0x300#11, 0x700#11, fun _ => true, fun _ _ => true, .lenh⟩,
    ⟨0x400#11, 0x700#11, fun _ => true, fun c b => lengthNonZero c.lengthHighByte b, .lenlNz⟩,
    ⟨0x400#11, 0x7FF#11, fun _ => true, fun c _ => lengthZero c.lengthHighByte, fun _ => .lenlZ⟩,
    ⟨0x500#11, 0x700#11, fun _ => true, fun c _ => morePayload c.payloadCount c.expectedLength, .payMore⟩,
    ⟨0x500#11, 0x700#11, fun _ => true, fun c _ => lastPayload c.payloadCount c.expectedLength, .payLast⟩,
    ⟨0x600#11, 0x700#11, fun _ => true, fun c b => checksumMatches b c.crc, .ckOk⟩,
    ⟨0x600#11, 0x700#11, fun _ => true, fun c b => !checksumMatches b c.crc, .ckBad⟩ ]

/-- The row applies to the key: `(K & mask) == match` and its conditions hold (R70). -/
def KeyRow.applies (r : KeyRow) (ctx : DecodeContext) (key : BitVec 11) : Bool :=
  (key &&& r.mask) == r.pattern && r.onByte (keyByte key) && r.onRegs ctx (keyByte key)

/-- The rows that apply to a key in a context. -/
def rowsApplying (ctx : DecodeContext) (key : BitVec 11) : List KeyRow :=
  keyRows.filter (fun r => r.applies ctx key)

/-- The DEC operation a key selects (R70). -/
def decodeDec (ctx : DecodeContext) (key : BitVec 11) : Except DecodeError Instr :=
  match rowsApplying ctx key with
  | r :: _ => .ok (r.instr (keyByte key))
  | [] => if keyState key = 7#3 then .error .reservedStateCode else .error .noRow

/-- The operation that `{rst, in_valid}` selects without a key (R71): reset wins (70_reset_and_hazards.md R173). -/
def decodeTop (key : BitVec 2) : Except DecodeError Instr :=
  if key &&& 2#2 = 2#2 then .ok .reset
  else if key &&& 3#2 = 0#2 then .ok .decHold
  else .error .consumeNeedsKey

/-- The command that `{crc_clr, crc_en}` selects (R71): clear wins (R73c). -/
def decodeEng (key : BitVec 2) (din : Byte) : Except DecodeError Instr :=
  if key &&& 2#2 = 2#2 then .ok .crcClr
  else if key &&& 3#2 = 1#2 then .ok (.crcByte din)
  else .ok .crcHold

/-- The operation a word selects. -/
def decode (ctx : DecodeContext) : OpWord → Except DecodeError Instr
  | .dec key => decodeDec ctx key
  | .top key => decodeTop key
  | .eng key din => decodeEng key din

/-- The word of an operation, from the same tables: the key with the row's state code and byte, or the port pair (an
ignored `x` bit, and a `crc_din` that the command ignores, written as 0: DESIGN CHOICE, assumption log 14). CRC.BIT,
CRC.COMPUTE and ENCODE have no encoding (R71). -/
def encode : Instr → Option OpWord
  | .idleHit => some (.dec (decodeKey .idle Config.hdr0))
  | .idleMiss b => some (.dec (decodeKey .idle b))
  | .h1Hit => some (.dec (decodeKey .awaitFirstHeaderByte Config.hdr0))
  | .h1Miss b => some (.dec (decodeKey .awaitFirstHeaderByte b))
  | .h2Hit => some (.dec (decodeKey .awaitSecondHeaderByte Config.hdr1))
  | .h2Miss b => some (.dec (decodeKey .awaitSecondHeaderByte b))
  | .lenh b => some (.dec (decodeKey .awaitLengthHigh b))
  | .lenlNz b => some (.dec (decodeKey .awaitLengthLow b))
  | .lenlZ => some (.dec (decodeKey .awaitLengthLow 0x00#8))
  | .payMore b => some (.dec (decodeKey .accumulatingPayload b))
  | .payLast b => some (.dec (decodeKey .accumulatingPayload b))
  | .ckOk b => some (.dec (decodeKey .awaitChecksum b))
  | .ckBad b => some (.dec (decodeKey .awaitChecksum b))
  | .reset => some (.top (portPair true false))
  | .decHold => some (.top (portPair false false))
  | .crcClr => some (.eng (portPair true false) 0x00#8)
  | .crcByte din => some (.eng (portPair false true) din)
  | .crcHold => some (.eng (portPair false false) 0x00#8)
  | .crcBit => none
  | .crcCompute _ => none
  | .encodeFrame _ => none

/-- The further condition on the registers under which an operation's row is selected (R70). Rows that share a key
are told apart by it. -/
def selectedIn (ctx : DecodeContext) : Instr → Bool
  | .lenlNz b => lengthNonZero ctx.lengthHighByte b
  | .lenlZ => lengthZero ctx.lengthHighByte
  | .payMore _ => morePayload ctx.payloadCount ctx.expectedLength
  | .payLast _ => lastPayload ctx.payloadCount ctx.expectedLength
  | .ckOk b => checksumMatches b ctx.crc
  | .ckBad b => !checksumMatches b ctx.crc
  | .idleHit | .idleMiss _ | .h1Hit | .h1Miss _ | .h2Hit | .h2Miss _ | .lenh _ => true
  | .reset | .decHold | .crcClr | .crcByte _ | .crcHold | .crcBit | .crcCompute _ | .encodeFrame _ => true

/-- The smallest registers of 41_frame_decoder.md R117 for a key's control state, in which the host's table words are
read: no payload byte yet, a length of 2 in AccumulatingPayload (so that a byte is not the last), the empty frame in
AwaitChecksum. DESIGN CHOICE, assumption log 12. -/
def tableContext (key : BitVec 11) : DecodeContext :=
  match stateOfCode (keyState key) with
  | some .awaitSecondHeaderByte => ⟨0#8, 0#16, 0#16, crcCompute [Config.hdr0]⟩
  | some .awaitLengthHigh => ⟨0#8, 0#16, 0#16, crcCompute [Config.hdr0, Config.hdr1]⟩
  | some .awaitLengthLow => ⟨0#8, 0#16, 0#16, crcCompute [Config.hdr0, Config.hdr1, 0#8]⟩
  | some .accumulatingPayload => ⟨0#8, 2#16, 0#16, crcCompute (frameHead 2#16)⟩
  | some .awaitChecksum => ⟨0#8, 0#16, 0#16, crcCompute (frameHead 0#16)⟩
  | some .idle | some .awaitFirstHeaderByte | none => ⟨0#8, 0#16, 0#16, Config.crcInit⟩

/-- The word the table's number stands for. More than one byte: the 11-bit key of R70, every bit above it zero. One
byte: a pair of port bits, read at the top-level ports where it names an operation there (RESET, DEC.HOLD), else at
ENG's (CRC.BYTE, its operand zero). DESIGN CHOICE, assumption log 12. -/
def tableWord (nbits w : Nat) : Option OpWord :=
  if 8 < nbits then
    if w < 2 ^ 11 then some (.dec (BitVec.ofNat 11 w)) else none
  else if w = 1 then some (.eng 1#2 0x00#8)
  else if w < 4 then some (.top (BitVec.ofNat 2 w))
  else none

/-- The operation the decoder reads from a table row's number, in the context of `tableContext`. -/
def decodeTableWord (nbits w : Nat) : Option Instr :=
  match tableWord nbits w with
  | some (.dec key) => (decode (tableContext key) (.dec key)).toOption
  | some (.top key) => (decode (tableContext 0#11) (.top key)).toOption
  | some (.eng key din) => (decode (tableContext 0#11) (.eng key din)).toOption
  | none => none

end Sys2Proof
end

