-- ==== Sys2Proof/Machine/State.lean ====
section
/-! DEFINITION. The state of the block as plain data (10_state.md R20), its value after RESET (R34, R35), and the
reasons a step can stop. -/

namespace Sys2Proof.Machine

/-- The payload buffer (20_memory.md R40, R41): the bytes written since the last full reset, as (index, byte) pairs with
strictly rising indices. An unlisted index has no value (R43, 93_implementation_defined.md U5; assumption log 7). -/
abbrev Memory := List Host.Cell

/-- The machine's state. The first six fields are the whole state of the hardware (10_state.md R20). -/
structure State where
  /-- The control state, the block's program counter (R22). -/
  state : ControlState
  /-- The length field's high byte (R23). -/
  lengthHighByte : Byte
  /-- The payload length of the frame in progress (R24). -/
  expectedLength : Half
  /-- The payload bytes received so far (R25). -/
  payloadBuffer : Memory
  /-- The number of payload bytes received so far, the write index (R25). -/
  payloadCount : Half
  /-- ENG's shift register (R21). -/
  crc : Byte
  /-- OUTPUT: the result of the last step, `out_valid` and `out_payload` (R29). No rule reads it, and every step
  overwrites it (assumption log 2). -/
  out : Option (List Byte)
  /-- THE MODEL'S OWN: the sequence ENCODE returned in the last step (assumption log 3). -/
  encFrame : Option (List Byte)
  /-- THE MODEL'S OWN: the port values the environment gives the coming steps, first one first (assumption log 1). -/
  pending : List Stimulus
  deriving DecidableEq, Repr

/-- Why the machine would stop with a fault. The spec has no fault (60_exceptions.md R150): both reasons belong to the
buffer primitives alone, and no meaning reaches them. -/
inductive Fault where
  /-- A write at an index the buffer does not have, 65535 or above (20_memory.md R41, R42). Raised by
  `State.memWrite`; safe. -/
  | noSuchLocation
  /-- A read at an index at or above `payloadCount`, or of a byte nothing has written since the last full reset: the
  spec gives it no value (20_memory.md R43). Raised by `State.memRead`; safe. -/
  | noSuchByte
  deriving DecidableEq, Repr

/-- Why an operation has no meaning where it is asked for. -/
inductive Refusal where
  /-- The instruction has no meaning in the model yet. Raised by no arm of `exec`; safe. -/
  | notModelled (mnemonic : String)
  /-- A DEC operation in registers outside 41_frame_decoder.md R117, to which the spec gives no meaning (R118,
  93_implementation_defined.md U3). Raised by `perform`; safe (assumption log 5). -/
  | outsideReachable
  /-- A DEC operation where its row of 30_encoding.md R70 does not apply: another control state, a byte or a register
  condition that is not its own. Raised by `perform`, never from a step; safe (assumption log 6). -/
  | notSelected
  /-- The word of the step selects no operation (30_encoding.md R73). Raised by `step`; safe (assumption log 5). -/
  | undecodable (why : DecodeError)
  /-- ENCODE of more than 65535 bytes where OVERSIZE_POLICY is `reject` (42_frame_encoder.md R144). Raised by
  `execEncodeFrame`; safe (assumption log 4). -/
  | oversizePayload
  deriving DecidableEq, Repr

/-- The state after RESET (10_state.md R34), with nothing pending. -/
def State.reset : State where
  state := .idle
  lengthHighByte := 0x00#8
  expectedLength := 0x0000#16
  payloadBuffer := []
  payloadCount := 0#16
  crc := Config.crcInit
  out := none
  encFrame := none
  pending := []

end Sys2Proof.Machine
end

