-- ==== Sys2Proof/Machine/Ops.lean ====
section
/-! DEFINITION. The named operations over memory and registers that the meanings are built from: the buffer primitives
(20_memory.md R42, R43), ENG's commands on the register (40_crc_engine.md R82, R83), `FullReset()` (10_state.md R35),
the emission (00_scope.md R17), and the guard under which a DEC operation has its meaning.

An error event is not a trap: what it does to the state is exactly `FullReset()` (60_exceptions.md R158), so
`State.fullReset` is the one shared operation of H2.MISS, CK.BAD, CK.OK and RESET. There is nothing to return from
(R159). -/

namespace Sys2Proof.Machine

/-- The byte listed at an index, if any. -/
def Memory.read : Memory → Nat → Option Byte
  | [], _ => none
  | (a, v) :: rest, i => if i = a then some v else Memory.read rest i

/-- The buffer with byte `v` at index `i`, in the same canonical form. -/
def Memory.write : Memory → Nat → Byte → Memory
  | [], i, v => [(i, v)]
  | (a, w) :: rest, i, v =>
    if i < a then (i, v) :: (a, w) :: rest
    else if i = a then (i, v) :: rest
    else (a, w) :: Memory.write rest i v

/-- The canonical form: indices strictly rising, each one a location of the buffer (20_memory.md R41). An unlisted
index has no value, so no entry equals what an unlisted index reads as. -/
def Memory.wf : Memory → Bool
  | [] => true
  | [(a, _)] => decide (a < Config.payloadMax)
  | (a, _) :: (b, w) :: rest => decide (a < b) && Memory.wf ((b, w) :: rest)

/-- What every operation does first: the last step's results are gone (10_state.md R28, R29). -/
def State.begin (s : State) : State := { s with out := none, encFrame := none }

/-- `state <- tag` (00_scope.md R17). -/
def State.goto (tag : ControlState) (s : State) : State := { s with state := tag }

/-- CRC.BYTE on ENG's register (40_crc_engine.md R82). -/
def State.absorb (b : Byte) (s : State) : State := { s with crc := upd s.crc b }

/-- CRC.CLR on ENG's register (40_crc_engine.md R83). -/
def State.clearCrc (s : State) : State := { s with crc := Config.crcInit }

/-- CRC.BIT on ENG's register (40_crc_engine.md R81). -/
def State.shiftCrc (s : State) : State := { s with crc := shift1 s.crc }

/-- `lengthHighByte <- b` (41_frame_decoder.md R108). -/
def State.setLengthHigh (b : Byte) (s : State) : State := { s with lengthHighByte := b }

/-- `expectedLength <- len` (41_frame_decoder.md R109, R110). -/
def State.setLength (len : Half) (s : State) : State := { s with expectedLength := len }

/-- `emit(p)` (00_scope.md R17). -/
def State.emit (p : List Byte) (s : State) : State := { s with out := some p }

/-- `FullReset()` (10_state.md R35): the six items of the state replaced as a whole, the buffer among them (20_memory.md
R44). -/
def State.fullReset (s : State) : State :=
  State.clearCrc
    { s with
      state := .idle
      lengthHighByte := 0x00#8
      expectedLength := 0x0000#16
      payloadBuffer := []
      payloadCount := 0#16 }

/-- `MemWrite(i, 1, v)` (20_memory.md R42). -/
def State.memWrite (i : Nat) (v : Byte) (s : State) : Except Fault State :=
  if i < Config.payloadMax then .ok { s with payloadBuffer := s.payloadBuffer.write i v }
  else .error .noSuchLocation

/-- `MemRead(i, 1)`, defined for `i < payloadCount` (20_memory.md R43, 00_scope.md R17). -/
def State.memRead (i : Nat) (s : State) : Except Fault Byte :=
  if i < s.payloadCount.toNat then
    match s.payloadBuffer.read i with
    | some v => .ok v
    | none => .error .noSuchByte
  else .error .noSuchByte

/-- "append byte to payloadBuffer": the write at `payloadCount` and the increment (20_memory.md R42). -/
def State.append (b : Byte) (s : State) : Except Fault State :=
  match s.memWrite s.payloadCount.toNat b with
  | .ok t => .ok { t with payloadCount := t.payloadCount + 1#16 }
  | .error f => .error f

/-- `n` bytes of the buffer from index `i` on, in order. -/
def State.readFrom (s : State) (i : Nat) : Nat → Except Fault (List Byte)
  | 0 => .ok []
  | n + 1 =>
    match s.memRead i, State.readFrom s (i + 1) n with
    | .ok v, .ok rest => .ok (v :: rest)
    | .error f, _ => .error f
    | .ok _, .error f => .error f

/-- `payloadBuffer[0 .. payloadCount]` (10_state.md R25, 20_memory.md R43). -/
def State.readPayload (s : State) : Except Fault (List Byte) := s.readFrom 0 s.payloadCount.toNat

/-- The bytes listed in the buffer, in order: the abstract sequence of 10_state.md R25 in a state that is `Legal`. -/
def State.payload (s : State) : List Byte := s.payloadBuffer.map Prod.snd

/-- The check value, SP's recomputation over header, length and payload (41_frame_decoder.md R115): the normative
definition. -/
def State.checkValue (s : State) : Byte := crcCompute (frameHead s.expectedLength ++ s.payload)

/-- The bytes of the frame in progress consumed so far (41_frame_decoder.md R116). -/
def State.frameBytes (s : State) : List Byte :=
  match s.state with
  | .idle => []
  | .awaitFirstHeaderByte => []
  | .awaitSecondHeaderByte => [Config.hdr0]
  | .awaitLengthHigh => [Config.hdr0, Config.hdr1]
  | .awaitLengthLow => [Config.hdr0, Config.hdr1, s.lengthHighByte]
  | .accumulatingPayload => frameHead s.expectedLength ++ s.payload
  | .awaitChecksum => frameHead s.expectedLength ++ s.payload

/-- What 41_frame_decoder.md R117 says of the length registers and the count, by control state. -/
def State.regsLegal (s : State) : Bool :=
  match s.state with
  | .idle | .awaitFirstHeaderByte | .awaitSecondHeaderByte | .awaitLengthHigh =>
    s.lengthHighByte == 0#8 && s.expectedLength == 0#16 && s.payloadCount == 0#16
  | .awaitLengthLow => s.expectedLength == 0#16 && s.payloadCount == 0#16
  | .accumulatingPayload =>
    decide (s.payloadCount.toNat < s.expectedLength.toNat) && s.lengthHighByte == lengthHigh s.expectedLength
  | .awaitChecksum =>
    s.payloadCount == s.expectedLength && s.lengthHighByte == lengthHigh s.expectedLength

/-- The reachable registers (41_frame_decoder.md R116, R117): the length registers and the count by control state, the
buffer listing exactly the indices below the count, the register the CRC of the frame in progress. -/
def State.legal (s : State) : Bool :=
  s.regsLegal && s.payloadBuffer.map Prod.fst == List.range s.payloadCount.toNat && s.crc == crcCompute s.frameBytes

/-- The registers are those of a reachable state. -/
abbrev State.Legal (s : State) : Prop := s.legal = true

/-- A DEC operation: it has its effect where the registers are reachable (41_frame_decoder.md R117, R118) and its row of
30_encoding.md R70 applies. -/
def perform (selected : Bool) (s : State) (effect : Host.Outcome State Fault Refusal) :
    Host.Outcome State Fault Refusal :=
  if s.legal then
    if selected then effect else .refused .notSelected
  else .refused .outsideReachable

/-- An effect that goes through a buffer primitive. -/
def orFault {α : Type} (r : Except Fault α) (k : α → Host.Outcome State Fault Refusal) : Host.Outcome State Fault Refusal :=
  match r with
  | .ok a => k a
  | .error f => .fault f

end Sys2Proof.Machine
end

