-- ==== Sys2Proof/Machine/Dec.lean ====
section
/-! DEFINITION. The meanings of the frame decoder's operations (41_frame_decoder.md R102 to R114). Each is performed in
its own control state, on its own bytes and under its own register condition (30_encoding.md R70); it writes what its
rule's pseudocode writes and nothing else. None raises an exception: HeaderMismatch and ChecksumMismatch are silent
and are `FullReset()` (60_exceptions.md R151, R152, R158). -/

namespace Sys2Proof.Machine

/-- The first header byte accepted (R102, R104). -/
def acceptFirstHeader (s : State) : State := (s.begin.absorb Config.hdr0).goto .awaitSecondHeaderByte

/-- IDLE.HIT (R102): the fall-through of R101 composed with the test of the same byte (90_conflicts.md C11). -/
def execIdleHit (s : State) : Host.Outcome State Fault Refusal :=
  perform (s.state == .idle) s (.next (acceptFirstHeader s))

/-- IDLE.MISS (R103). -/
def execIdleMiss (b : Byte) (s : State) : Host.Outcome State Fault Refusal :=
  perform (s.state == .idle && b != Config.hdr0) s (.next (s.begin.goto .awaitFirstHeaderByte))

/-- H1.HIT (R104). -/
def execH1Hit (s : State) : Host.Outcome State Fault Refusal :=
  perform (s.state == .awaitFirstHeaderByte) s (.next (acceptFirstHeader s))

/-- H1.MISS (R105): no register changes. -/
def execH1Miss (b : Byte) (s : State) : Host.Outcome State Fault Refusal :=
  perform (s.state == .awaitFirstHeaderByte && b != Config.hdr0) s (.next s.begin)

/-- H2.HIT (R106). -/
def execH2Hit (s : State) : Host.Outcome State Fault Refusal :=
  perform (s.state == .awaitSecondHeaderByte) s (.next ((s.begin.absorb Config.hdr1).goto .awaitLengthHigh))

/-- H2.MISS (R107), the event HeaderMismatch (60_exceptions.md R151): the byte is consumed and not looked at again. -/
def execH2Miss (b : Byte) (s : State) : Host.Outcome State Fault Refusal :=
  perform (s.state == .awaitSecondHeaderByte && b != Config.hdr1) s (.next s.begin.fullReset)

/-- LENH (R108). -/
def execLenh (b : Byte) (s : State) : Host.Outcome State Fault Refusal :=
  perform (s.state == .awaitLengthHigh) s (.next (((s.begin.setLengthHigh b).absorb b).goto .awaitLengthLow))

/-- LENL.NZ (R109). -/
def execLenlNz (b : Byte) (s : State) : Host.Outcome State Fault Refusal :=
  perform (s.state == .awaitLengthLow && lengthNonZero s.lengthHighByte b) s
    (.next (((s.begin.setLength (assembleLength s.lengthHighByte b)).absorb b).goto .accumulatingPayload))

/-- LENL.Z (R110): the byte is 0x00. -/
def execLenlZ (s : State) : Host.Outcome State Fault Refusal :=
  perform (s.state == .awaitLengthLow && lengthZero s.lengthHighByte) s
    (.next (((s.begin.setLength 0x0000#16).absorb 0x00#8).goto .awaitChecksum))

/-- PAY.MORE (R111): the byte's value is not examined (R123). -/
def execPayMore (b : Byte) (s : State) : Host.Outcome State Fault Refusal :=
  perform (s.state == .accumulatingPayload && morePayload s.payloadCount s.expectedLength) s
    (orFault (s.begin.append b) fun t => .next (t.absorb b))

/-- PAY.LAST (R112). -/
def execPayLast (b : Byte) (s : State) : Host.Outcome State Fault Refusal :=
  perform (s.state == .accumulatingPayload && lastPayload s.payloadCount s.expectedLength) s
    (orFault (s.begin.append b) fun t => .next ((t.absorb b).goto .awaitChecksum))

/-- CK.OK (R113): the copy is taken from the buffer before the reset, and emitted. -/
def execCkOk (b : Byte) (s : State) : Host.Outcome State Fault Refusal :=
  perform (s.state == .awaitChecksum && checksumMatches b s.crc) s
    (orFault s.readPayload fun p => .next (s.begin.fullReset.emit p))

/-- CK.BAD (R114), the event ChecksumMismatch (60_exceptions.md R152): the byte and the buffered payload are dropped. -/
def execCkBad (b : Byte) (s : State) : Host.Outcome State Fault Refusal :=
  perform (s.state == .awaitChecksum && !checksumMatches b s.crc) s (.next s.begin.fullReset)

end Sys2Proof.Machine
end

