-- ==== Sys2Proof/Machine/Enc.lean ====
section
/-! DEFINITION. The frame encoder ENC, a reference function outside the hardware (42_frame_encoder.md R140, R141), the
notion of a valid frame (30_encoding.md R67), and the meaning of ENCODE, which changes no register of the block
(00_scope.md R5). -/

namespace Sys2Proof.Machine

/-- `(n >> 8) & 0xFF` and `n & 0xFF` (R141): a number above 65535 wraps. -/
def lengthField (n : Nat) : Half := BitVec.ofNat 16 n

/-- `encode(P)` as R141 writes it, for a payload of any length (R144, policy `wrap`, beyond 65535). -/
def frameOf (payload : List Byte) : List Byte :=
  let head := frameHead (lengthField payload.length) ++ payload
  head ++ [crcCompute head]

/-- A valid frame (30_encoding.md R67): at least five bytes, the header bytes, the length the length field asks for, and
a last byte equal to the CRC of all the bytes before it. -/
def validFrame : List Byte → Bool
  | h0 :: h1 :: lh :: ll :: c :: rest =>
    h0 == Config.hdr0 && h1 == Config.hdr1
      && (c :: rest).length == (assembleLength lh ll).toNat + 1
      && (c :: rest).getLast? == some (crcCompute (h0 :: h1 :: lh :: ll :: (c :: rest).dropLast))
  | _ => false

/-- ENCODE (R141). Beyond 65535 bytes OVERSIZE_POLICY decides (R144; assumption log 4). -/
def execEncodeFrame (payload : List Byte) (s : State) : Host.Outcome State Fault Refusal :=
  if payload.length ≤ Config.payloadMax then .next { s.begin with encFrame := some (frameOf payload) }
  else
    match Config.oversizePolicy with
    | .wrap => .next { s.begin with encFrame := some (frameOf payload) }
    | .reject => .refused .oversizePayload

end Sys2Proof.Machine
end

