-- ==== Sys2Proof/Machine/Eng.lean ====
section
/-! DEFINITION. The meanings of ENG's operations (40_crc_engine.md R81 to R85) on the register `crc`. They write that
register and nothing else; the value of `crc` is ENG's output `crc_q` (10_state.md R29). Every value of `crc` is legal
(R21), so they run in every state. ENG has no step of its own (00_scope.md R10): its commands happen inside DEC's
operations, which drive its ports (`engPorts`); ENG used alone, on a register of its own, is `engNext` (assumption
log 9). -/

namespace Sys2Proof.Machine

/-- ENG's output `crc_q` (10_state.md R29). -/
def State.crcQ (s : State) : Byte := s.crc

/-- CRC.CLR (R83). -/
def execCrcClr (s : State) : Host.Outcome State Fault Refusal := .next s.begin.clearCrc

/-- CRC.BYTE (R82). -/
def execCrcByte (din : Byte) (s : State) : Host.Outcome State Fault Refusal := .next (s.begin.absorb din)

/-- CRC.HOLD (R84). -/
def execCrcHold (s : State) : Host.Outcome State Fault Refusal := .next s.begin

/-- CRC.BIT (R81): one shift of the register (assumption log 10). -/
def execCrcBit (s : State) : Host.Outcome State Fault Refusal := .next s.begin.shiftCrc

/-- CRC.COMPUTE (R85): its expansion, CRC.CLR and then CRC.BYTE with each byte in order; the result is `crc_q` of the
next state (assumption log 11). -/
def execCrcCompute (bytes : List Byte) (s : State) : Host.Outcome State Fault Refusal :=
  .next (bytes.foldl (fun t b => t.absorb b) s.begin.clearCrc)

/-- What ENG's register becomes under the values of its command ports (30_encoding.md R71): clear wins (R73c). -/
def engNext (p : EngPorts) (crc : Byte) : Byte :=
  if p.crcClr then Config.crcInit else if p.crcEn then upd crc p.crcDin else crc

/-- The word of ENG's command ports (30_encoding.md R71). -/
def engWord (p : EngPorts) : OpWord := .eng (portPair p.crcClr p.crcEn) p.crcDin

/-- No command: CRC.HOLD, which ignores `crc_din`. That it stands at 0x00 is a DESIGN CHOICE (assumption log 14); safe. -/
def engHold : EngPorts := ⟨false, false, 0x00#8⟩

/-- The command CRC.CLR, which ignores `crc_en` and `crc_din` (30_encoding.md R71, R73c). That they stand at 0 and 0x00 is a
DESIGN CHOICE (assumption log 14); safe. -/
def engClear : EngPorts := ⟨true, false, 0x00#8⟩

/-- The command CRC.BYTE. -/
def engByte (b : Byte) : EngPorts := ⟨false, true, b⟩

/-- What stands on ENG's command ports in a step that performs the operation: DEC "drives them as its operations say"
(30_encoding.md section 2; 41_frame_decoder.md R102 to R114 and R128, 40_crc_engine.md R83 and R84). ENG's own commands
are their own ports, and an operation without a word issues none. The values of ports that a command ignores are the model's
(assumption log 14). -/
def engPorts : Instr → EngPorts
  | .idleHit => engByte Config.hdr0
  | .idleMiss _ => engHold
  | .h1Hit => engByte Config.hdr0
  | .h1Miss _ => engHold
  | .h2Hit => engByte Config.hdr1
  | .h2Miss _ => engClear
  | .lenh b => engByte b
  | .lenlNz b => engByte b
  | .lenlZ => engByte 0x00#8
  | .payMore b => engByte b
  | .payLast b => engByte b
  | .ckOk _ => engClear
  | .ckBad _ => engClear
  | .reset => engClear
  | .decHold => engHold
  | .crcClr => engClear
  | .crcByte din => engByte din
  | .crcHold => engHold
  | .crcBit => engHold
  | .crcCompute _ => engHold
  | .encodeFrame _ => engHold

end Sys2Proof.Machine
end

