-- ==== Sys2Proof/Machine/Top.lean ====
section
/-! DEFINITION. The meanings of the top-level operations: RESET (70_reset_and_hazards.md R170) and DEC.HOLD
(41_frame_decoder.md R128). Both are allowed in every state, also in registers outside R117 (assumption log 13). -/

namespace Sys2Proof.Machine

/-- RESET (R170): `FullReset()`, result none. -/
def execReset (s : State) : Host.Outcome State Fault Refusal := .next s.begin.fullReset

/-- DEC.HOLD (R128): no register changes, result none. -/
def execDecHold (s : State) : Host.Outcome State Fault Refusal := .next s.begin

end Sys2Proof.Machine
end

