-- ==== Sys2Proof/Machine/Dispatch.lean ====
section
/-! DEFINITION. The dispatch: one arm per operation of spec/opcode_table.json. -/

namespace Sys2Proof.Machine

def exec (i : Instr) (s : State) : Host.Outcome State Fault Refusal :=
  match i with
  | .idleHit => Sys2Proof.Machine.execIdleHit s
  | .idleMiss b => Sys2Proof.Machine.execIdleMiss b s
  | .h1Hit => Sys2Proof.Machine.execH1Hit s
  | .h1Miss b => Sys2Proof.Machine.execH1Miss b s
  | .h2Hit => Sys2Proof.Machine.execH2Hit s
  | .h2Miss b => Sys2Proof.Machine.execH2Miss b s
  | .lenh b => Sys2Proof.Machine.execLenh b s
  | .lenlNz b => Sys2Proof.Machine.execLenlNz b s
  | .lenlZ => Sys2Proof.Machine.execLenlZ s
  | .payMore b => Sys2Proof.Machine.execPayMore b s
  | .payLast b => Sys2Proof.Machine.execPayLast b s
  | .ckOk b => Sys2Proof.Machine.execCkOk b s
  | .ckBad b => Sys2Proof.Machine.execCkBad b s
  | .reset => Sys2Proof.Machine.execReset s
  | .decHold => Sys2Proof.Machine.execDecHold s
  | .crcClr => Sys2Proof.Machine.execCrcClr s
  | .crcByte din => Sys2Proof.Machine.execCrcByte din s
  | .crcHold => Sys2Proof.Machine.execCrcHold s
  | .crcBit => Sys2Proof.Machine.execCrcBit s
  | .crcCompute bytes => Sys2Proof.Machine.execCrcCompute bytes s
  | .encodeFrame payload => Sys2Proof.Machine.execEncodeFrame payload s

end Sys2Proof.Machine
end

