-- ==== Sys2Proof/Machine/Fetch.lean ====
section
/-! DEFINITION. How a step finds its operation (41_frame_decoder.md R101, 30_encoding.md R70, R71): the port values of the
step, the word they form with the control state, and the registers that the conditions read. With nothing pending the
step has no byte (R128, 60_exceptions.md R166). -/

namespace Sys2Proof.Machine

/-- The registers the conditions of R70 read. -/
def State.decodeContext (s : State) : DecodeContext :=
  ⟨s.lengthHighByte, s.expectedLength, s.payloadCount, s.crc⟩

/-- The port values of the next step. With nothing pending the ignored `in_byte` is 0x00: DESIGN CHOICE, assumption log 14. -/
def State.stimulus (s : State) : Stimulus :=
  match s.pending with
  | [] => .top false false 0x00#8
  | st :: _ => st

/-- The word the port values form. `rst` wins over `in_valid` (70_reset_and_hazards.md R173), and the byte is read only
where both let it be (30_encoding.md R68). No step has a word of ENG's: ENG has no step of its own (00_scope.md R10). -/
def wordOf (tag : ControlState) (v : Stimulus) : OpWord :=
  if !v.rst && v.inValid then .dec (decodeKey tag v.inByte) else .top (portPair v.rst v.inValid)

/-- The word of the next step. -/
def State.fetch (s : State) : OpWord := wordOf s.state s.stimulus

/-- The port values of this step are used up (20_memory.md R40: a byte once consumed is gone). -/
def State.advance (s : State) : State := { s with pending := s.pending.tail }

/-- `v` on the ports of the next step, before what is already pending. -/
def State.present (v : Stimulus) (s : State) : State := { s with pending := v :: s.pending }

/-- `s` with a table row's word where `step` finds it. A DEC key is a control state and a byte: the control state and the
registers its conditions read are those of `tableContext`, the buffer is empty, the byte is on the ports. A pair of
top-level ports is put on them. Nothing changes for an ENG command, which no step performs by itself (00_scope.md R10),
for a number that is no word, and for the reserved state code 7, which no control state has. Assumption log 12. -/
def State.placeWord (nbits w : Nat) (s : State) : State :=
  match tableWord nbits w with
  | some (.dec key) =>
    match stateOfCode (keyState key) with
    | some tag =>
      State.present (.top false true (keyByte key))
        { s with
          state := tag
          lengthHighByte := (tableContext key).lengthHighByte
          expectedLength := (tableContext key).expectedLength
          payloadBuffer := []
          payloadCount := (tableContext key).payloadCount
          crc := (tableContext key).crc }
    | none => s
  | some (.top key) => s.present (.top (key.getLsbD 1) (key.getLsbD 0) 0x00#8)
  | some (.eng _ _) => s
  | none => s

end Sys2Proof.Machine
end

