-- ==== Sys2Proof/Machine/Step.lean ====
section
/-! DEFINITION. One step of the block (00_scope.md R10, R11): the word of the step is formed, the operation it selects is
performed, and the port values are used up. -/

namespace Sys2Proof.Machine

/-- One step: exactly one operation (41_frame_decoder.md R101). -/
def step (s : State) : Host.Outcome State Fault Refusal :=
  match decode s.decodeContext s.fetch with
  | .ok i => exec i s.advance
  | .error e => .refused (.undecodable e)

/-- `s` with a table row's word placed so that the very next step performs it (assumption log 1 and 12). -/
def State.withFetchWord (s : State) (nbits w : Nat) : State := s.placeWord nbits w

end Sys2Proof.Machine
end

