-- ==== Sys2Proof/Machine/Stream.lean ====
section
/-! DEFINITION. The stream-level functions of the spec over `step`: `consume` and `feed` (41_frame_decoder.md R100), a run
of port values, and the reference step of R120 in the form without a CRC register (R115, R116), over the abstract payload
sequence of 10_state.md R25. -/

namespace Sys2Proof.Machine

/-- `consume(b)` (R100): the step with the byte on the ports. Its result is `out` of the next state. -/
def consume (b : Byte) (s : State) : Host.Outcome State Fault Refusal := step (s.present (.top false true b))

/-- `feed(s)` (R100): one `consume` per byte in order, with the payloads emitted, first one first. -/
def feed : List Byte → State → Host.Outcome (State × List (List Byte)) Fault Refusal
  | [], s => .next (s, [])
  | b :: rest, s =>
    match consume b s with
    | .next t =>
      match feed rest t with
      | .next (u, emitted) => .next (u, t.out.toList ++ emitted)
      | .fault f => .fault f
      | .refused r => .refused r
    | .fault f => .fault f
    | .refused r => .refused r

/-- `n` steps, with the payloads emitted, first one first. -/
def runSteps : Nat → State → Host.Outcome (State × List (List Byte)) Fault Refusal
  | 0, s => .next (s, [])
  | n + 1, s =>
    match step s with
    | .next t =>
      match runSteps n t with
      | .next (u, emitted) => .next (u, t.out.toList ++ emitted)
      | .fault f => .fault f
      | .refused r => .refused r
    | .fault f => .fault f
    | .refused r => .refused r

/-- The operations performed one after another. -/
def execAll : List Instr → State → Host.Outcome State Fault Refusal
  | [], s => .next s
  | i :: rest, s =>
    match exec i s with
    | .next t => execAll rest t
    | .fault f => .fault f
    | .refused r => .refused r

/-- The decoder without a CRC register: SP's own working fields (10_state.md R20), the payload as a sequence. -/
structure RefState where
  state : ControlState
  lengthHighByte : Byte
  expectedLength : Half
  payload : List Byte
  deriving DecidableEq, Repr

/-- The reference decoder right after a full reset. -/
def refReset : RefState := ⟨.idle, 0#8, 0#16, []⟩

/-- What a state of the machine is to the reference decoder. -/
def State.toRef (s : State) : RefState := ⟨s.state, s.lengthHighByte, s.expectedLength, s.payload⟩

/-- The rows of the control states after the fall-through of R101. -/
def refRow (s : RefState) (b : Byte) : ControlState → RefState × Option (List Byte)
  | .idle => (s, none)
  | .awaitFirstHeaderByte =>
    if b = 0x55#8 then ({ s with state := .awaitSecondHeaderByte }, none)
    else ({ s with state := .awaitFirstHeaderByte }, none)
  | .awaitSecondHeaderByte =>
    if b = 0xAA#8 then ({ s with state := .awaitLengthHigh }, none) else (refReset, none)
  | .awaitLengthHigh => ({ s with lengthHighByte := b, state := .awaitLengthLow }, none)
  | .awaitLengthLow =>
    let len := assembleLength s.lengthHighByte b
    ({ s with expectedLength := len, state := if len = 0#16 then .awaitChecksum else .accumulatingPayload }, none)
  | .accumulatingPayload =>
    let p := s.payload ++ [b]
    ({ s with payload := p, state := if p.length = s.expectedLength.toNat then .awaitChecksum else .accumulatingPayload },
      none)
  | .awaitChecksum =>
    (refReset, if b = crcCompute (frameHead s.expectedLength ++ s.payload) then some s.payload else none)

/-- The whole step as one function (R120), with SP's recomputed check value (R115) in place of the register. The Idle
row is SP's two-stage one: the tag changes and the same byte is evaluated again (R101). -/
def refConsume (s : RefState) (b : Byte) : RefState × Option (List Byte) :=
  refRow s b (if s.state = .idle then .awaitFirstHeaderByte else s.state)

end Sys2Proof.Machine
end

