-- ==== Sys2Proof/Safety.lean ====
section
/-! DEFINITION. What counts as a safe run, in the terms the claims use. -/

namespace Sys2Proof.Machine

/-- The outcome is a next state. -/
def completes {σ : Type} : Host.Outcome σ Fault Refusal → Bool
  | .next _ => true
  | .fault _ => false
  | .refused _ => false

/-- Header search (00_scope.md R19): the control states Idle and AwaitFirstHeaderByte. -/
def State.headerSearch (s : State) : Bool := s.state == .idle || s.state == .awaitFirstHeaderByte

/-- The six items of 10_state.md R20 are equal; the outputs and the pending port values may differ. -/
abbrev sameRegisters (s t : State) : Prop :=
  s.state = t.state ∧ s.lengthHighByte = t.lengthHighByte ∧ s.expectedLength = t.expectedLength ∧
    s.payloadBuffer = t.payloadBuffer ∧ s.payloadCount = t.payloadCount ∧ s.crc = t.crc

/-- The port values of a DEC.HOLD step (30_encoding.md R71). -/
def isHold (v : Stimulus) : Bool := !v.rst && !v.inValid

/-- What 41_frame_decoder.md R116 and R117 say of a reachable state, written out by control state. -/
def ReachableRegisters (s : State) : Prop :=
  match s.state with
  | .idle | .awaitFirstHeaderByte =>
    s.lengthHighByte = 0#8 ∧ s.expectedLength = 0#16 ∧ s.payloadCount = 0#16 ∧ s.crc = 0x00#8
  | .awaitSecondHeaderByte =>
    s.lengthHighByte = 0#8 ∧ s.expectedLength = 0#16 ∧ s.payloadCount = 0#16 ∧ s.crc = 0xAC#8
  | .awaitLengthHigh =>
    s.lengthHighByte = 0#8 ∧ s.expectedLength = 0#16 ∧ s.payloadCount = 0#16 ∧ s.crc = 0x12#8
  | .awaitLengthLow => s.expectedLength = 0#16 ∧ s.payloadCount = 0#16 ∧ s.crc = upd 0x12#8 s.lengthHighByte
  | .accumulatingPayload =>
    1 ≤ s.expectedLength.toNat ∧ s.payloadCount.toNat < s.expectedLength.toNat ∧
      s.lengthHighByte = lengthHigh s.expectedLength ∧
      s.crc = crcCompute ([0x55#8, 0xAA#8, lengthHigh s.expectedLength, lengthLow s.expectedLength] ++ s.payload) ∧
      s.payload.length = s.payloadCount.toNat
  | .awaitChecksum =>
    s.payloadCount = s.expectedLength ∧ s.lengthHighByte = lengthHigh s.expectedLength ∧
      s.crc = crcCompute ([0x55#8, 0xAA#8, lengthHigh s.expectedLength, lengthLow s.expectedLength] ++ s.payload) ∧
      s.payload.length = s.payloadCount.toNat

/-- The label of the next step (60_exceptions.md R154), where an operation is selected. -/
def State.stepLabel (s : State) : Option Label :=
  match decode s.decodeContext s.fetch with
  | .ok i => some (labelOf i)
  | .error _ => none

end Sys2Proof.Machine
end

