-- ==== Sys2Proof/Certificates/Slice0/Obligations.lean ====
section
/-! DEFINITION. The statements for the provers. A next state is written as the old state with the fields that change, so
each such equation is also the operation's frame. `encFrame` and `pending` are the model's own fields (assumption log 1
and 3), and `out` holds the step's result (R29; log 2): what a statement says of `encFrame` and `pending` is the model's.
`Legal` is rule R117 of 41_frame_decoder.md, the premise that R118 asks a claim to carry. -/

open Sys2Proof Sys2Proof.Machine

/-! ### ENG: the arithmetic -/

/-- 40_crc_engine.md R81: `shift1` in unbounded numbers with its mask, its bit-level form, its corner cases, and that
CRC.BIT has no encoding. -/
def Obligations.Shift1BitLevelForm : Prop :=
  (∀ a : Byte, (shift1 a).toNat =
    if a.getLsbD 7 then ((a.toNat <<< 1) &&& 0xFF) ^^^ 0x07 else (a.toNat <<< 1) &&& 0xFF) ∧
  (∀ a : Byte,
    (shift1 a).getLsbD 0 = a.getLsbD 7 ∧
    (shift1 a).getLsbD 1 = (a.getLsbD 0 ^^ a.getLsbD 7) ∧
    (shift1 a).getLsbD 2 = (a.getLsbD 1 ^^ a.getLsbD 7) ∧
    ∀ k, 3 ≤ k → k ≤ 7 → (shift1 a).getLsbD k = a.getLsbD (k - 1)) ∧
  shift1 0x00#8 = 0x00#8 ∧ shift1 0x80#8 = 0x07#8 ∧ shift1 0x7F#8 = 0xFE#8 ∧ shift1 0xFF#8 = 0xF9#8 ∧
  shift1 0x01#8 = 0x02#8 ∧ shift1 0x40#8 = 0x80#8 ∧ shift1 0xAA#8 = 0x53#8 ∧
  encode .crcBit = none

/-- 40_crc_engine.md R91: the update is the lookup of `a ^ b` in the table of 95_test_vectors.md section 2.2, whose entry
`x` is `upd(0x00, x)`. -/
def Obligations.UpdateIsTableLookup : Prop :=
  crcTable.length = 256 ∧
  (∀ x : Byte, crcTable[x.toNat]? = some (upd 0x00#8 x)) ∧
  (∀ a b : Byte, crcTable[(a ^^^ b).toNat]? = some (upd a b))

/-- 40_crc_engine.md R89. -/
def Obligations.CrcLinearOverXor : Prop :=
  (∀ a a' : Byte, shift1 (a ^^^ a') = shift1 a ^^^ shift1 a') ∧
  (∀ a a' b b' : Byte, upd (a ^^^ a') (b ^^^ b') = upd a b ^^^ upd a' b') ∧
  (∀ xs ys : List Byte, xs.length = ys.length →
    crcCompute (List.zipWith (· ^^^ ·) xs ys) = crcCompute xs ^^^ crcCompute ys)

/-- 40_crc_engine.md section 3 (the bijection law): the register is recovered bit by bit from its shift; the shift, the
eight shifts and the update with any byte are bijections; two register values never merge under the same bytes; and for
any header, length and payload exactly one checksum byte makes a valid frame. -/
def Obligations.ShiftAndUpdateBijective : Prop :=
  (∀ a : Byte,
    a.getLsbD 7 = (shift1 a).getLsbD 0 ∧
    a.getLsbD 0 = ((shift1 a).getLsbD 1 ^^ (shift1 a).getLsbD 0) ∧
    a.getLsbD 1 = ((shift1 a).getLsbD 2 ^^ (shift1 a).getLsbD 0) ∧
    ∀ k, 3 ≤ k → k ≤ 7 → a.getLsbD (k - 1) = (shift1 a).getLsbD k) ∧
  Function.Bijective shift1 ∧
  Function.Bijective (fun x : Byte => shift1 (shift1 (shift1 (shift1 (shift1 (shift1 (shift1 (shift1 x)))))))) ∧
  (∀ b : Byte, Function.Bijective (fun a => upd a b)) ∧
  (∀ (bytes : List Byte) (a a' : Byte), bytes.foldl upd a = bytes.foldl upd a' → a = a') ∧
  (∀ payload : List Byte, payload.length ≤ 65535 →
    ∃! c : Byte, validFrame (frameHead (BitVec.ofNat 16 payload.length) ++ payload ++ [c]) = true)

/-- 40_crc_engine.md R88. -/
def Obligations.IncrementalLaw : Prop :=
  ∀ xs ys : List Byte, crcCompute (xs ++ ys) = ys.foldl upd (crcCompute xs)

/-- 40_crc_engine.md R92. -/
def Obligations.SelfCheckLaw : Prop :=
  (∀ bytes : List Byte, crcCompute (bytes ++ [crcCompute bytes]) = 0x00#8) ∧
  (∀ c x : Byte, upd c x = 0x00#8 ↔ x = c)

/-- 40_crc_engine.md R93. -/
def Obligations.ZeroPrefixLaw : Prop :=
  ∀ (k : Nat) (bytes : List Byte), crcCompute (List.replicate k 0x00#8 ++ bytes) = crcCompute bytes

/-- 60_exceptions.md section 5 (a): a pattern `e` XORed onto the payload goes undetected exactly when its own CRC is zero,
and a pattern of one non-zero byte never does. -/
def Obligations.UndetectedCorruption : Prop :=
  (∀ head payload e : List Byte, e.length = payload.length →
    (crcCompute (head ++ List.zipWith (· ^^^ ·) payload e) = crcCompute (head ++ payload) ↔ crcCompute e = 0x00#8)) ∧
  (∀ (j k : Nat) (x : Byte), x ≠ 0x00#8 →
    crcCompute (List.replicate j 0x00#8 ++ x :: List.replicate k 0x00#8) ≠ 0x00#8)

/-! ### ENG: the operations on the register -/

/-- CRC.CLR (40_crc_engine.md section 1): clear wins over enable, the register becomes 0x00 whatever it was, a second clear
changes nothing more, and a full reset clears the register too. The effect on `crc` is the rule's; that the command is
performed by itself on the block's state, where it is no step, is the model's reading (assumption log 9), and the result
`none` it then leaves is the model's choice (log 2). -/
def Obligations.CrcClrClearsRegister : Prop :=
  (∀ (ctx : DecodeContext) (en : Bool) (din : Byte), decode ctx (.eng (portPair true en) din) = .ok .crcClr) ∧
  (∀ s : State, exec .crcClr s = .next { s with crc := 0x00#8, out := none, encFrame := none }) ∧
  (∀ s : State, execAll [.crcClr, .crcClr] s = exec .crcClr s) ∧
  (∀ s t : State, exec .reset s = .next t → t.crc = 0x00#8)

/-- CRC.BYTE (40_crc_engine.md section 1): the byte XORed in once, then eight shifts; no other register changes. The effect on `crc` is the rule's; that the command is
performed by itself on the block's state, where it is no step, is the model's reading (assumption log 9), and the result
`none` it then leaves is the model's choice (log 2). -/
def Obligations.CrcByteUpdatesRegister : Prop :=
  (∀ (ctx : DecodeContext) (din : Byte), decode ctx (.eng (portPair false true) din) = .ok (.crcByte din)) ∧
  (∀ (s : State) (din : Byte), exec (.crcByte din) s = .next
    { s with
      crc := shift1 (shift1 (shift1 (shift1 (shift1 (shift1 (shift1 (shift1 (s.crc ^^^ din))))))))
      out := none
      encFrame := none }) ∧
  upd 0x00#8 0x00#8 = 0x00#8 ∧ (∀ a : Byte, upd a a = 0x00#8) ∧ upd 0xFF#8 0x00#8 = 0xF3#8 ∧
  upd 0xFF#8 0xFF#8 = 0x00#8 ∧ upd 0x12#8 0x34#8 = 0xF2#8 ∧ upd 0xA5#8 0x5A#8 = 0xF3#8 ∧ upd 0x00#8 0x55#8 = 0xAC#8

/-- CRC.HOLD (40_crc_engine.md section 1): no register changes, however often it is performed, and DEC holds the register in
IDLE.MISS, H1.MISS and DEC.HOLD. The effect on `crc` is the rule's; that the command is
performed by itself on the block's state, where it is no step, is the model's reading (assumption log 9), and the result
`none` it then leaves is the model's choice (log 2). That DEC.HOLD is
performed also in registers outside R117 is the model's (log 13). -/
def Obligations.CrcHoldKeepsRegister : Prop :=
  (∀ (ctx : DecodeContext) (din : Byte), decode ctx (.eng (portPair false false) din) = .ok .crcHold) ∧
  (∀ s : State, exec .crcHold s = .next { s with out := none, encFrame := none }) ∧
  (∀ (n : Nat) (s : State), ∃ t, execAll (List.replicate n .crcHold) s = .next t ∧ t.crc = s.crc) ∧
  (∀ (s t : State) (b : Byte),
    (exec (.idleMiss b) s = .next t ∨ exec (.h1Miss b) s = .next t ∨ exec .decHold s = .next t) → t.crc = s.crc)

/-- CRC.BIT performed as an operation shifts the register and changes nothing else. That it writes the register is the
model's reading (assumption log 10), and the result `none` it then leaves is the model's choice (log 2); the shift is
40_crc_engine.md R81's. -/
def Obligations.CrcBitShiftsRegister : Prop :=
  ∀ s : State, exec .crcBit s = .next
    { s with
      crc := if s.crc.getLsbD 7 then (s.crc <<< 1) ^^^ 0x07#8 else s.crc <<< 1
      out := none
      encFrame := none }

/-- CRC.COMPUTE is its expansion, CRC.CLR and then one CRC.BYTE per byte, and leaves `compute(bytes)` in the register; no
other register changes. That it is performed on the register is the model's reading (assumption log 11), and the result
`none` it then leaves is the model's choice (log 2). -/
def Obligations.CrcComputeIsExpansion : Prop :=
  (∀ (bytes : List Byte) (s : State),
    exec (.crcCompute bytes) s = .next { s with crc := crcCompute bytes, out := none, encFrame := none } ∧
    execAll (.crcClr :: bytes.map .crcByte) s = exec (.crcCompute bytes) s) ∧
  crcCompute [] = 0x00#8 ∧
  (∀ (bytes : List Byte) (b : Byte), crcCompute (bytes ++ [b]) = upd (crcCompute bytes) b)

/-- 30_encoding.md section 2: ENG's commands happen inside the steps of the block. Whatever operation with a word is
performed, the register `crc` becomes what the command that the operation puts on ENG's ports makes of it, and that
command is the one ENG's decoder reads from the ports. What an operation drives is read from its rule (assumption log 9;
ignored ports: log 14). -/
def Obligations.EngCommandsHappenInsideOperations : Prop :=
  ∀ (i : Instr) (w : OpWord) (s t : State), encode i = some w → exec i s = .next t →
    t.crc = engNext (engPorts i) s.crc ∧
    ∃ (j : Instr) (u : State), decode s.decodeContext (engWord (engPorts i)) = .ok j ∧ exec j s = .next u ∧ u.crc = t.crc

/-- 40_crc_engine.md section 1, ENG used alone, on a register of its own: `compute` is what a clear followed by one byte
command per byte leaves in it, whatever it held and with any number of steps without a command between. -/
def Obligations.EngAloneComputes : Prop :=
  (∀ (q din : Byte) (en : Bool), engNext ⟨true, en, din⟩ q = 0x00#8) ∧
  (∀ q din : Byte, engNext ⟨false, true, din⟩ q = upd q din) ∧
  (∀ q din : Byte, engNext ⟨false, false, din⟩ q = q) ∧
  (∀ (q : Byte) (steps : List EngPorts), steps.all (fun p => !p.crcClr) = true →
    (engClear :: steps).foldl (fun r p => engNext p r) q =
      crcCompute ((steps.filter EngPorts.crcEn).map EngPorts.crcDin))

/-! ### ENC -/

/-- ENCODE gives the frame of the pseudocode of 42_frame_encoder.md and changes no register. That the frame stands in
`encFrame` and `out` is then none are the model's choices (assumption logs 3 and 2). -/
def Obligations.EncodeGivesFrame : Prop :=
  ∀ (payload : List Byte) (s : State), payload.length ≤ 65535 →
    exec (.encodeFrame payload) s = .next
      { s with
        out := none
        encFrame := some
          ([0x55#8, 0xAA#8, BitVec.ofNat 8 (payload.length >>> 8), BitVec.ofNat 8 payload.length] ++ payload ++
            [crcCompute ([0x55#8, 0xAA#8, BitVec.ofNat 8 (payload.length >>> 8), BitVec.ofNat 8 payload.length] ++
              payload)]) }

/-- ENCODE beyond 65535 bytes does what OVERSIZE_POLICY says: `wrap` applies the same formula, `reject` refuses. The
policy is an uninterpreted constant (assumption log 4), and the fields `encFrame` and `out` are the model's choices (logs 3
and 2). -/
def Obligations.EncodeOversizeFollowsPolicy : Prop :=
  ∀ (payload : List Byte) (s : State), 65535 < payload.length →
    exec (.encodeFrame payload) s =
      match Config.oversizePolicy with
      | .wrap => .next { s with out := none, encFrame := some (frameOf payload) }
      | .reject => .refused .oversizePayload

/-- 42_frame_encoder.md R142, for a payload of any length. -/
def Obligations.EncodedLength : Prop :=
  ∀ payload : List Byte, (frameOf payload).length = payload.length + 5

/-- The valid frames of 30_encoding.md section 1 are exactly what the encoder makes of the payloads of at most 65535
bytes. -/
def Obligations.ValidFramesAreEncodings : Prop :=
  ∀ f : List Byte, validFrame f = true ↔ ∃ payload : List Byte, payload.length ≤ 65535 ∧ f = frameOf payload

/-- 20_memory.md R45 and 30_encoding.md R66: the high byte is the more significant; assembling and splitting are inverse;
the sending side's halves are those of the number. -/
def Obligations.LengthFieldBigEndian : Prop :=
  (∀ high low : Byte,
    (assembleLength high low).toNat = (high.toNat <<< 8) ||| low.toNat ∧
    (assembleLength high low).toNat = 256 * high.toNat + low.toNat ∧
    lengthHigh (assembleLength high low) = high ∧ lengthLow (assembleLength high low) = low) ∧
  (∀ len : Half, assembleLength (lengthHigh len) (lengthLow len) = len) ∧
  (∀ n : Nat,
    (lengthHigh (lengthField n)).toNat = (n >>> 8) &&& 0xFF ∧ (lengthLow (lengthField n)).toNat = n &&& 0xFF) ∧
  (∀ n : Nat, n ≤ 65535 → (((n >>> 8) &&& 0xFF) <<< 8) ||| (n &&& 0xFF) = n)

/-! ### The top-level operations -/

/-- 70_reset_and_hazards.md R171: RESET, performed in any state at all, leaves the table of values; and every full reset
(after CK.OK, CK.BAD, H2.MISS) leaves the same registers. -/
def Obligations.ResetLeavesResetValues : Prop :=
  (∀ s : State, ∃ t : State, exec .reset s = .next t ∧
    t.state = .idle ∧ t.lengthHighByte = 0x00#8 ∧ t.expectedLength = 0x0000#16 ∧ t.payloadCount = 0#16 ∧
    t.payloadBuffer = [] ∧ t.crc = 0x00#8 ∧ t.out = none ∧ t.encFrame = none ∧ t.pending = s.pending) ∧
  (∀ (s t : State) (b : Byte),
    (exec (.ckOk b) s = .next t ∨ exec (.ckBad b) s = .next t ∨ exec (.h2Miss b) s = .next t) →
    sameRegisters t State.reset)

/-- 70_reset_and_hazards.md R173: with `rst` the step is RESET whatever the other ports hold; the byte is used up and has
no effect. -/
def Obligations.ResetWinsOverByte : Prop :=
  ∀ (s : State) (inValid : Bool) (b : Byte) (rest : List Stimulus),
    s.pending = .top true inValid b :: rest → step s = .next { State.reset with pending := rest }

/-- 41_frame_decoder.md section 7: DEC.HOLD changes no register; a step without a byte is DEC.HOLD; any number of them in any
control state changes nothing and emits nothing. The spec says it of reachable registers; that it also holds outside R117,
where R118 gives no rule, is the model's choice (assumption log 13). -/
def Obligations.HoldChangesNothing : Prop :=
  (∀ s : State, exec .decHold s = .next { s with out := none, encFrame := none }) ∧
  (∀ (s : State) (b : Byte) (rest : List Stimulus), s.pending = .top false false b :: rest →
    step s = .next { s with out := none, encFrame := none, pending := rest }) ∧
  (∀ (n : Nat) (s : State), s.pending = [] → ∃ t, runSteps n s = .next (t, []) ∧ sameRegisters s t)

/-! ### The frame decoder, operation by operation

Each statement gives the key of the operation (30_encoding.md R70), its next state, and that a step with that byte on the
ports performs it. -/

/-- 41_frame_decoder.md R102 and R104: IDLE.HIT and H1.HIT. The register was 0x00 and becomes 0xAC; no other register is
written. -/
def Obligations.FirstHeaderByteAccepted : Prop :=
  encode .idleHit = some (.dec 0x055#11) ∧ encode .h1Hit = some (.dec 0x155#11) ∧
  ∀ s : State, s.Legal →
    (s.state = .idle →
      s.crc = 0x00#8 ∧ upd s.crc 0x55#8 = 0xAC#8 ∧
      exec .idleHit s = .next
        { s with state := .awaitSecondHeaderByte, crc := upd s.crc 0x55#8, out := none, encFrame := none } ∧
      consume 0x55#8 s = exec .idleHit s) ∧
    (s.state = .awaitFirstHeaderByte →
      s.crc = 0x00#8 ∧ upd s.crc 0x55#8 = 0xAC#8 ∧
      exec .h1Hit s = .next
        { s with state := .awaitSecondHeaderByte, crc := upd s.crc 0x55#8, out := none, encFrame := none } ∧
      consume 0x55#8 s = exec .h1Hit s)

/-- 41_frame_decoder.md R103 and R105: IDLE.MISS and H1.MISS write nothing but the control state; any byte but 0x55 is a
miss, 0xAA among them; the decoder can stay in header search for any number of bytes. -/
def Obligations.HeaderSearchMiss : Prop :=
  (∀ b : Byte, encode (.idleMiss b) = some (.dec (0#3 ++ b)) ∧ encode (.h1Miss b) = some (.dec (1#3 ++ b))) ∧
  (∀ (s : State) (b : Byte), s.Legal → b ≠ 0x55#8 →
    (s.state = .idle →
      exec (.idleMiss b) s = .next { s with state := .awaitFirstHeaderByte, out := none, encFrame := none } ∧
      consume b s = exec (.idleMiss b) s) ∧
    (s.state = .awaitFirstHeaderByte →
      exec (.h1Miss b) s = .next { s with out := none, encFrame := none } ∧ consume b s = exec (.h1Miss b) s)) ∧
  (∀ (s : State) (bytes : List Byte), s.Legal → s.state = .awaitFirstHeaderByte → 0x55#8 ∉ bytes →
    ∃ t, feed bytes s = .next (t, []) ∧ sameRegisters s t)

/-- 41_frame_decoder.md R106: H2.HIT. The register was 0xAC and becomes 0x12. -/
def Obligations.SecondHeaderByteAccepted : Prop :=
  encode .h2Hit = some (.dec 0x2AA#11) ∧
  ∀ s : State, s.Legal → s.state = .awaitSecondHeaderByte →
    s.crc = 0xAC#8 ∧ upd s.crc 0xAA#8 = 0x12#8 ∧
    exec .h2Hit s = .next
      { s with state := .awaitLengthHigh, crc := upd s.crc 0xAA#8, out := none, encFrame := none } ∧
    consume 0xAA#8 s = exec .h2Hit s

/-- 41_frame_decoder.md R107, 60_exceptions.md R151: H2.MISS is a full reset with no result, for every byte but 0xAA, the
byte 0x55 among them; the label is HeaderMismatch, and no other operation has that label. -/
def Obligations.HeaderMismatchResets : Prop :=
  (∀ b : Byte, encode (.h2Miss b) = some (.dec (2#3 ++ b))) ∧
  (∀ i : Instr, labelOf i = .headerMismatch ↔ ∃ b, i = .h2Miss b) ∧
  ∀ (s : State) (b : Byte), s.Legal → s.state = .awaitSecondHeaderByte → b ≠ 0xAA#8 →
    exec (.h2Miss b) s = .next { State.reset with pending := s.pending } ∧ consume b s = exec (.h2Miss b) s

/-- 41_frame_decoder.md R108: LENH, for every byte. -/
def Obligations.LengthHighByteStored : Prop :=
  (∀ b : Byte, encode (.lenh b) = some (.dec (3#3 ++ b))) ∧
  ∀ (s : State) (b : Byte), s.Legal → s.state = .awaitLengthHigh →
    exec (.lenh b) s = .next
      { s with
        lengthHighByte := b
        state := .awaitLengthLow
        crc := upd s.crc b
        out := none
        encFrame := none } ∧
    s.crc = 0x12#8 ∧ consume b s = exec (.lenh b) s

/-- 41_frame_decoder.md R109: LENL.NZ, with the length as a number; `lengthHighByte` keeps its value, `payloadCount` is
0. -/
def Obligations.NonZeroLengthAccepted : Prop :=
  (∀ b : Byte, encode (.lenlNz b) = some (.dec (4#3 ++ b))) ∧
  ∀ (s : State) (b : Byte), s.Legal → s.state = .awaitLengthLow → (s.lengthHighByte ≠ 0#8 ∨ b ≠ 0#8) →
    exec (.lenlNz b) s = .next
      { s with
        expectedLength := BitVec.ofNat 16 (256 * s.lengthHighByte.toNat + b.toNat)
        state := .accumulatingPayload
        crc := upd s.crc b
        out := none
        encFrame := none } ∧
    s.payloadCount = 0#16 ∧ 1 ≤ 256 * s.lengthHighByte.toNat + b.toNat ∧
    256 * s.lengthHighByte.toNat + b.toNat ≤ 65535 ∧ consume b s = exec (.lenlNz b) s

/-- 41_frame_decoder.md R110: LENL.Z goes straight to the checksum; the register was 0x7E and becomes 0x7D; the buffer
stays empty. -/
def Obligations.ZeroLengthAccepted : Prop :=
  encode .lenlZ = some (.dec 0x400#11) ∧
  ∀ s : State, s.Legal → s.state = .awaitLengthLow → s.lengthHighByte = 0#8 →
    exec .lenlZ s = .next
      { s with
        expectedLength := 0x0000#16
        state := .awaitChecksum
        crc := upd s.crc 0x00#8
        out := none
        encFrame := none } ∧
    s.crc = 0x7E#8 ∧ upd s.crc 0x00#8 = 0x7D#8 ∧ s.payloadBuffer = [] ∧ consume 0x00#8 s = exec .lenlZ s

/-- 41_frame_decoder.md R111 and R112: PAY.MORE and PAY.LAST append the byte, whatever its value; the last one goes to the
checksum. The count does not wrap. -/
def Obligations.PayloadByteAppended : Prop :=
  (∀ b : Byte, encode (.payMore b) = some (.dec (5#3 ++ b)) ∧ encode (.payLast b) = some (.dec (5#3 ++ b))) ∧
  ∀ (s : State) (b : Byte), s.Legal → s.state = .accumulatingPayload →
    (s.payloadCount.toNat + 1 < s.expectedLength.toNat →
      exec (.payMore b) s = .next
        { s with
          payloadBuffer := s.payloadBuffer ++ [(s.payloadCount.toNat, b)]
          payloadCount := BitVec.ofNat 16 (s.payloadCount.toNat + 1)
          crc := upd s.crc b
          out := none
          encFrame := none } ∧
      s.payloadCount.toNat + 1 ≤ 65534 ∧ consume b s = exec (.payMore b) s) ∧
    (s.payloadCount.toNat + 1 = s.expectedLength.toNat →
      exec (.payLast b) s = .next
        { s with
          payloadBuffer := s.payloadBuffer ++ [(s.payloadCount.toNat, b)]
          payloadCount := BitVec.ofNat 16 (s.payloadCount.toNat + 1)
          state := .awaitChecksum
          crc := upd s.crc b
          out := none
          encFrame := none } ∧
      s.payloadCount.toNat + 1 ≤ 65535 ∧ consume b s = exec (.payLast b) s)

/-- 20_memory.md section 1: the one location a payload step writes is index `payloadCount`; every other index reads as
before, the length registers keep their values and the count goes up by one. -/
def Obligations.PayloadStoreFrame : Prop :=
  ∀ (s t : State) (b : Byte), (exec (.payMore b) s = .next t ∨ exec (.payLast b) s = .next t) →
    t.payloadBuffer.read s.payloadCount.toNat = some b ∧
    (∀ i : Nat, i ≠ s.payloadCount.toNat → t.payloadBuffer.read i = s.payloadBuffer.read i) ∧
    t.payload = s.payload ++ [b] ∧
    t.payloadCount.toNat = s.payloadCount.toNat + 1 ∧ t.payloadCount.toNat ≤ t.expectedLength.toNat ∧
    t.lengthHighByte = s.lengthHighByte ∧ t.expectedLength = s.expectedLength ∧ t.pending = s.pending

/-- Every operation but PAY.MORE, PAY.LAST and the full resets leaves every byte of the buffer as it reads and the count
as it is (20_memory.md section 1). -/
def Obligations.OtherOperationsKeepBuffer : Prop :=
  ∀ (i : Instr) (s t : State), exec i s = .next t →
    (∀ b : Byte, i ≠ .payMore b ∧ i ≠ .payLast b ∧ i ≠ .ckOk b ∧ i ≠ .ckBad b ∧ i ≠ .h2Miss b) → i ≠ .reset →
    (∀ a : Nat, t.payloadBuffer.read a = s.payloadBuffer.read a) ∧ t.payloadCount = s.payloadCount

/-- 41_frame_decoder.md R113 with the normative check value of R115: CK.OK emits a copy of the payload, of the expected
length, and is a full reset. The emission of an empty payload is an emission. -/
def Obligations.ChecksumMatchEmits : Prop :=
  (∀ b : Byte, encode (.ckOk b) = some (.dec (6#3 ++ b))) ∧
  ∀ s : State, s.Legal → s.state = .awaitChecksum →
    exec (.ckOk s.checkValue) s = .next { State.reset with out := some s.payload, pending := s.pending } ∧
    s.checkValue =
      crcCompute ([0x55#8, 0xAA#8, lengthHigh s.expectedLength, lengthLow s.expectedLength] ++ s.payload) ∧
    s.readPayload = .ok s.payload ∧ s.payload.length = s.expectedLength.toNat ∧
    labelOf (.ckOk s.checkValue) = .emit ∧ consume s.checkValue s = exec (.ckOk s.checkValue) s

/-- 41_frame_decoder.md R114, 60_exceptions.md R152: CK.BAD is a full reset with no result, for each of the 255 bytes
that are not the check value; the label is ChecksumMismatch, and no other operation has that label. -/
def Obligations.ChecksumMismatchResets : Prop :=
  (∀ b : Byte, encode (.ckBad b) = some (.dec (6#3 ++ b))) ∧
  (∀ i : Instr, labelOf i = .checksumMismatch ↔ ∃ b, i = .ckBad b) ∧
  ∀ (s : State) (b : Byte), s.Legal → s.state = .awaitChecksum → b ≠ s.checkValue →
    exec (.ckBad b) s = .next { State.reset with pending := s.pending } ∧ consume b s = exec (.ckBad b) s

/-- In AwaitChecksum exactly one byte selects CK.OK, the check value, and the other 255 select CK.BAD (41_frame_decoder.md
section 5). -/
def Obligations.OneChecksumByteValidates : Prop :=
  ∀ s : State, s.Legal → s.state = .awaitChecksum → ∀ b : Byte,
    decode s.decodeContext (.dec (decodeKey s.state b)) = .ok (if b = s.checkValue then .ckOk b else .ckBad b)

/-- 10_state.md R31: the same byte in Idle and in AwaitFirstHeaderByte gives the same result and the same next state. -/
def Obligations.IdleAndFirstHeaderAlike : Prop :=
  ∀ (s : State) (b : Byte), s.Legal → s.state = .idle →
    State.Legal { s with state := .awaitFirstHeaderByte } ∧
    consume b s = consume b { s with state := .awaitFirstHeaderByte } ∧
    ∃ t, consume b s = .next t ∧ t.out = none ∧
      t.state = if b = 0x55#8 then .awaitSecondHeaderByte else .awaitFirstHeaderByte

/-! ### The map of operations and the step -/

/-- 41_frame_decoder.md section 6: an operation answers a payload only if it is CK.OK, in AwaitChecksum, on the check
value, and the payload is the buffer's. -/
def Obligations.EmissionOnlyFromChecksumOk : Prop :=
  ∀ (i : Instr) (s t : State) (p : List Byte), exec i s = .next t → t.out = some p →
    ∃ b : Byte, i = .ckOk b ∧ s.Legal ∧ s.state = .awaitChecksum ∧ b = s.checkValue ∧ p = s.payload

/-- 60_exceptions.md section 1: which steps carry which label, for a byte on the ports. -/
def Obligations.LabelsOfByteSteps : Prop :=
  ∀ (s : State) (b : Byte) (rest : List Stimulus), s.Legal → s.pending = .top false true b :: rest →
    (s.stepLabel = some .headerMismatch ↔ s.state = .awaitSecondHeaderByte ∧ b ≠ 0xAA#8) ∧
    (s.stepLabel = some .checksumMismatch ↔ s.state = .awaitChecksum ∧ b ≠ s.checkValue) ∧
    (s.stepLabel = some .emit ↔ s.state = .awaitChecksum ∧ b = s.checkValue) ∧
    s.stepLabel ≠ none

/-- 60_exceptions.md section 1: no operation and no step of the block is a fault, in any state whatever. -/
def Obligations.NothingFaults : Prop :=
  (∀ (i : Instr) (s : State) (f : Fault), exec i s ≠ .fault f) ∧ (∀ (s : State) (f : Fault), step s ≠ .fault f)

/-- 30_encoding.md section 5, 70_reset_and_hazards.md R183: in a legal state every step answers a next state, whatever is
on the ports. -/
def Obligations.EveryStepCompletes : Prop :=
  (∀ s : State, s.Legal → ∃ t, step s = .next t) ∧
  (∀ (s : State) (b : Byte), s.Legal → ∃ t, consume b s = .next t)

/-- 30_encoding.md section 4: in a legal state exactly one row of the map applies to a byte, and the decoder answers its
operation. -/
def Obligations.ExactlyOneRowApplies : Prop :=
  ∀ (s : State) (b : Byte), s.Legal →
    ∃ r : KeyRow, rowsApplying s.decodeContext (decodeKey s.state b) = [r] ∧
      decode s.decodeContext (.dec (decodeKey s.state b)) = .ok (r.instr b)

/-- The map and the meanings agree: in a legal state a DEC operation has its effect exactly where the decoder selects it,
and is refused elsewhere. The refusal elsewhere is the model's choice (assumption log 6). -/
def Obligations.MeaningsFollowTheMap : Prop :=
  ∀ (i : Instr) (key : BitVec 11) (s : State), s.Legal → encode i = some (.dec key) →
    (keyState key = stateCode s.state ∧ decode s.decodeContext (.dec key) = .ok i → ∃ t, exec i s = .next t) ∧
    (¬ (keyState key = stateCode s.state ∧ decode s.decodeContext (.dec key) = .ok i) →
      exec i s = .refused .notSelected)

/-- In registers outside R117 a DEC operation has no meaning: it is refused by name. That it is refused is the model's
choice among those R118 leaves (assumption log 5). -/
def Obligations.OutsideReachableRefused : Prop :=
  ∀ (i : Instr) (key : BitVec 11) (s : State), ¬ s.Legal → encode i = some (.dec key) →
    exec i s = .refused .outsideReachable

/-- Every bit of an encoding counts: a well-formed operation's word decodes to it, in every context that meets its row's
further condition. -/
def Obligations.DecodeOfEncode : Prop :=
  ∀ (ctx : DecodeContext) (i : Instr) (w : OpWord),
    WellFormed i → encode i = some w → selectedIn ctx i = true → decode ctx w = .ok i

/-- What the decoder answers is well formed, meets its row's condition, and is the operation of that key; at a port pair,
the operation's own word decodes to it again. -/
def Obligations.EncodeOfDecode : Prop :=
  (∀ (ctx : DecodeContext) (key : BitVec 11) (i : Instr), decode ctx (.dec key) = .ok i →
    encode i = some (.dec key) ∧ WellFormed i ∧ selectedIn ctx i = true) ∧
  (∀ (ctx : DecodeContext) (w : OpWord) (i : Instr), decode ctx w = .ok i →
    WellFormed i ∧ ∃ w', encode i = some w' ∧ decode ctx w' = .ok i)

/-- 30_encoding.md section 5: the reserved state code selects nothing and is no control state's; AccumulatingPayload with
`payloadCount >= expectedLength` selects nothing; clear wins over enable. -/
def Obligations.ReservedEncodingsSelectNothing : Prop :=
  (∀ (ctx : DecodeContext) (key : BitVec 11), keyState key = 7#3 → decode ctx (.dec key) = .error .reservedStateCode) ∧
  (∀ st : ControlState, stateCode st ≠ 7#3) ∧ stateOfCode 7#3 = none ∧
  (∀ (ctx : DecodeContext) (b : Byte), ctx.expectedLength.toNat ≤ ctx.payloadCount.toNat →
    decode ctx (.dec (decodeKey .accumulatingPayload b)) = .error .noRow) ∧
  (∀ (ctx : DecodeContext) (din : Byte), decode ctx (.eng 3#2 din) = .ok .crcClr)

/-- The encodings of 30_encoding.md section 4 written out: a word of each family and the operation it stands for. -/
def Obligations.SampleWordsDecode : Prop :=
  decode ⟨0#8, 0#16, 0#16, 0x00#8⟩ (.dec 0b000_01010101#11) = .ok .idleHit ∧
  decode ⟨0#8, 0#16, 0#16, 0x00#8⟩ (.dec 0b000_10101010#11) = .ok (.idleMiss 0xAA#8) ∧
  decode ⟨0#8, 0#16, 0#16, 0x7E#8⟩ (.dec 0b100_00000000#11) = .ok .lenlZ ∧
  decode ⟨1#8, 0#16, 0#16, 0x79#8⟩ (.dec 0b100_00000000#11) = .ok (.lenlNz 0x00#8) ∧
  decode ⟨0#8, 3#16, 2#16, 0xED#8⟩ (.dec 0b101_00000011#11) = .ok (.payLast 0x03#8) ∧
  decode ⟨0#8, 0#16, 0#16, 0x7D#8⟩ (.dec 0b110_01111101#11) = .ok (.ckOk 0x7D#8) ∧
  decode ⟨0#8, 0#16, 0#16, 0x00#8⟩ (.top 0b11#2) = .ok .reset ∧
  decode ⟨0#8, 0#16, 0#16, 0x00#8⟩ (.eng 0b01#2 0x55#8) = .ok (.crcByte 0x55#8)

/-- A step runs the decoded operation: what the ports hold, with the control state, is the word; the operation the word
selects is performed on the state with those port values used up; where it selects none, the step is refused. That it is
refused is the model's choice (assumption log 5; 93_implementation_defined.md U3); `pending` is the model's own field (log
1). -/
def Obligations.StepRunsDecodedOperation : Prop :=
  (∀ (s : State) (i : Instr), decode s.decodeContext s.fetch = .ok i →
    step s = exec i { s with pending := s.pending.tail }) ∧
  (∀ (s : State) (e : DecodeError), decode s.decodeContext s.fetch = .error e → step s = .refused (.undecodable e)) ∧
  (∀ (s : State) (b : Byte) (rest : List Stimulus), s.pending = .top false true b :: rest →
    s.fetch = .dec (stateCode s.state ++ b)) ∧
  (∀ (s : State) (inValid : Bool) (b : Byte) (rest : List Stimulus), s.pending = .top true inValid b :: rest →
    s.fetch = .top (portPair true inValid)) ∧
  (∀ (s : State) (b : Byte) (rest : List Stimulus), s.pending = .top false false b :: rest ∨ s.pending = [] →
    s.fetch = .top (portPair false false))

/-- 00_scope.md section 4 and 92_eei_decisions.md D3: a step is one `consume`, one RESET or one DEC.HOLD, and nothing else;
whatever the environment gives the ports, ENG's commands, CRC.BIT, CRC.COMPUTE and ENCODE are no step's operation. -/
def Obligations.StepsAreConsumeResetHold : Prop :=
  (∀ (s : State) (v : Stimulus) (rest : List Stimulus), s.pending = v :: rest →
    step s =
      if v.rst then exec .reset { s with pending := rest }
      else if v.inValid then consume v.inByte { s with pending := rest }
      else exec .decHold { s with pending := rest }) ∧
  (∀ s : State, s.pending = [] → step s = exec .decHold s) ∧
  (∀ (s : State) (i : Instr), decode s.decodeContext s.fetch = .ok i →
    i = .reset ∨ i = .decHold ∨ ∃ b : Byte, encode i = some (.dec (decodeKey s.state b)))

/-! ### Invariants and streams -/

/-- The state after RESET meets the invariants (41_frame_decoder.md section 6). -/
def Obligations.ResetMeetsInvariants : Prop :=
  State.reset.Legal ∧ State.reset.payloadBuffer.wf = true ∧ ReachableRegisters State.reset

/-- Every step, whatever is on the ports, keeps the registers within R117 (41_frame_decoder.md section 6). -/
def Obligations.StepKeepsSound : Prop :=
  ∀ s t : State, s.Legal → step s = .next t → t.Legal

/-- Every step, from any state at all and whatever is on the ports, keeps the buffer's canonical form (assumption
log 7). -/
def Obligations.StepKeepsBufferCanonical : Prop :=
  ∀ s t : State, s.payloadBuffer.wf = true → step s = .next t → t.payloadBuffer.wf = true

/-- 41_frame_decoder.md R117 and R116, written out: every state that any stream of bytes reaches from the state after
RESET. -/
def Obligations.ReachableStatesAsListed : Prop :=
  ∀ bytes : List Byte, ∃ (t : State) (emitted : List (List Byte)),
    feed bytes State.reset = .next (t, emitted) ∧ ReachableRegisters t ∧ t.crc = crcCompute t.frameBytes ∧
    t.payloadCount.toNat ≤ 65535

/-- The whole step is the reference function of 41_frame_decoder.md section 6 in its form without a CRC register: the
result and the next control state, length registers and payload are those of SP's table with SP's recomputed check. -/
def Obligations.ConsumeRefinesReference : Prop :=
  ∀ (s : State) (b : Byte), s.Legal →
    ∃ t : State, consume b s = .next t ∧ t.Legal ∧ t.pending = s.pending ∧
      t.toRef = (refConsume s.toRef b).1 ∧ t.out = (refConsume s.toRef b).2

/-- 41_frame_decoder.md R124: from header search, feeding the encoding of a payload emits that payload once, in the step
of the last byte, and ends in Idle. -/
def Obligations.RoundTrip : Prop :=
  ∀ (payload : List Byte) (s : State), payload.length ≤ 65535 → s.Legal → s.headerSearch = true →
    (∃ t, feed (frameOf payload) s = .next (t, [payload]) ∧ t.state = .idle) ∧
    (∀ k : Nat, k < (frameOf payload).length → ∃ u, feed ((frameOf payload).take k) s = .next (u, []))

/-- 41_frame_decoder.md section 7, SP §8 property 5: a frame whose last byte is corrupted emits nothing, and the next valid
frame appended to it is decoded. -/
def Obligations.CorruptedChecksumThenRecovery : Prop :=
  ∀ (payload nextPayload : List Byte) (x : Byte) (s : State),
    payload.length ≤ 65535 → nextPayload.length ≤ 65535 → x ≠ 0x00#8 → s.Legal → s.headerSearch = true →
    let bad := (frameOf payload).dropLast ++ [crcCompute (frameOf payload).dropLast ^^^ x]
    (∃ t, feed bad s = .next (t, []) ∧ sameRegisters t State.reset) ∧
    (∃ t, feed (bad ++ frameOf nextPayload) s = .next (t, [nextPayload]) ∧ t.state = .idle)

/-- 41_frame_decoder.md section 7: a stray 0x55 before a valid empty frame loses it, from every legal header-search
state; the second 0x55 leaves Idle, not AwaitSecondHeaderByte. -/
def Obligations.StrayHeaderByteLosesFrame : Prop :=
  ∀ s : State, s.Legal → s.headerSearch = true →
    (∃ t, feed [0x55#8, 0x55#8] s = .next (t, []) ∧ t.state = .idle) ∧
    (∃ t, feed [0x55#8, 0x55#8, 0xAA#8, 0x00#8, 0x00#8, 0x7D#8] s = .next (t, []) ∧ t.state = .awaitFirstHeaderByte)

/-- 41_frame_decoder.md section 7: once a header is accepted the decoder takes the length and then that many bytes and one
more, by count and with no look at their content; it then is in Idle, and it has emitted exactly when the last byte is
the check value. -/
def Obligations.FrameConsumedByCount : Prop :=
  ∀ (s : State) (high low c : Byte) (payload : List Byte), s.Legal → s.state = .awaitLengthHigh →
    payload.length = 256 * high.toNat + low.toNat →
    (∃ t, feed ([high, low] ++ payload ++ [c]) s =
        .next (t, if c = crcCompute ([0x55#8, 0xAA#8, high, low] ++ payload) then [payload] else []) ∧
      sameRegisters t State.reset) ∧
    (∃ u, feed ([high, low] ++ payload) s = .next (u, []) ∧ u.state = .awaitChecksum ∧ u.payload = payload)

/-- 41_frame_decoder.md section 7, SP §8 property 7: steps without a byte, anywhere among the steps of a run, change
neither the emissions nor the registers it ends with. -/
def Obligations.HoldStepsAreInvisible : Prop :=
  ∀ (ports : List Stimulus) (s : State), s.Legal →
    ∃ (t u : State) (emitted : List (List Byte)),
      runSteps ports.length { s with pending := ports } = .next (t, emitted) ∧
      runSteps (ports.filter (fun v => !isHold v)).length { s with pending := ports.filter (fun v => !isHold v) } =
        .next (u, emitted) ∧
      sameRegisters t u
end

