-- ==== Sys2Proof/Laws/Decode.lean ====
section
/-! SUPPORT. What the decoder answers, once for each control state and port pair: later proofs cite these and do not
unfold the row table. -/

namespace Sys2Proof

open Sys2Proof.Machine

@[simp] theorem keyByte_decodeKey (st : ControlState) (b : Byte) : keyByte (decodeKey st b) = b := by
  revert b; cases st <;> decide

@[simp] theorem keyState_decodeKey (st : ControlState) (b : Byte) : keyState (decodeKey st b) = stateCode st := by
  revert b; cases st <;> decide

@[simp] theorem stateOfCode_stateCode (st : ControlState) : stateOfCode (stateCode st) = some st := by
  cases st <;> rfl

/-- Different control states have different codes. -/
theorem stateCode_inj (s t : ControlState) : stateCode s = stateCode t ↔ s = t := by
  cases s <;> cases t <;> decide

/-- The key is its two parts. -/
theorem key_parts (key : BitVec 11) : keyState key ++ keyByte key = key := by
  revert key; decide

/-- A key whose state field is the code of a control state is that control state's key. -/
theorem decodeKey_of_stateOfCode (key : BitVec 11) (st : ControlState) (h : stateOfCode (keyState key) = some st) :
    decodeKey st (keyByte key) = key := by
  revert key; cases st <;> decide

/-- A mask of the state field compares the control state alone. -/
theorem and_stateMask (st : ControlState) (b : Byte) : decodeKey st b &&& 0x700#11 = decodeKey st 0#8 := by
  revert b; cases st <;> decide

/-- The whole mask compares the control state and the byte. -/
theorem and_wholeMask (st : ControlState) (b : Byte) (p : BitVec 11) :
    (decodeKey st b &&& 0x7FF#11 == p) = (stateCode st == keyState p && b == keyByte p) := by
  have hk : decodeKey st b &&& 0x7FF#11 = decodeKey st b := by revert b; cases st <;> decide
  rw [hk, Bool.eq_iff_iff]
  simp only [beq_iff_eq, Bool.and_eq_true]
  constructor
  · rintro rfl; simp
  · rintro ⟨h1, h2⟩; rw [decodeKey, h1, h2, key_parts]

variable (ctx : DecodeContext) (b : Byte)

/-- When a row with the state mask applies. -/
theorem applies_stateMask (st : ControlState) (p : BitVec 11) (f : Byte → Bool) (g : DecodeContext → Byte → Bool)
    (h : Byte → Instr) :
    KeyRow.applies ⟨p, 0x700#11, f, g, h⟩ ctx (decodeKey st b) = (decodeKey st 0#8 == p && f b && g ctx b) := by
  simp only [KeyRow.applies, keyByte_decodeKey, and_stateMask]

/-- When a row with the whole mask applies. -/
theorem applies_wholeMask (st : ControlState) (p : BitVec 11) (f : Byte → Bool) (g : DecodeContext → Byte → Bool)
    (h : Byte → Instr) :
    KeyRow.applies ⟨p, 0x7FF#11, f, g, h⟩ ctx (decodeKey st b) =
      (stateCode st == keyState p && b == keyByte p && f b && g ctx b) := by
  simp only [KeyRow.applies, keyByte_decodeKey, and_wholeMask]

theorem decode_idle :
    decode ctx (.dec (decodeKey .idle b)) = .ok (if b = Config.hdr0 then .idleHit else .idleMiss b) := by
  simp only [decode, decodeDec, rowsApplying, keyRows, List.filter_cons, applies_stateMask, applies_wholeMask,
    keyByte_decodeKey, keyState_decodeKey]
  by_cases h : b = 0x55#8 <;> simp [decodeKey, stateCode, keyState, keyByte, Config.hdr0, h]

theorem decode_awaitFirstHeaderByte :
    decode ctx (.dec (decodeKey .awaitFirstHeaderByte b)) = .ok (if b = Config.hdr0 then .h1Hit else .h1Miss b) := by
  simp only [decode, decodeDec, rowsApplying, keyRows, List.filter_cons, applies_stateMask, applies_wholeMask,
    keyByte_decodeKey, keyState_decodeKey]
  by_cases h : b = 0x55#8 <;> simp [decodeKey, stateCode, keyState, keyByte, Config.hdr0, h]

theorem decode_awaitSecondHeaderByte :
    decode ctx (.dec (decodeKey .awaitSecondHeaderByte b)) = .ok (if b = Config.hdr1 then .h2Hit else .h2Miss b) := by
  simp only [decode, decodeDec, rowsApplying, keyRows, List.filter_cons, applies_stateMask, applies_wholeMask,
    keyByte_decodeKey, keyState_decodeKey]
  by_cases h : b = 0xAA#8 <;> simp [decodeKey, stateCode, keyState, keyByte, Config.hdr1, h]

theorem decode_awaitLengthHigh : decode ctx (.dec (decodeKey .awaitLengthHigh b)) = .ok (.lenh b) := by
  simp only [decode, decodeDec, rowsApplying, keyRows, List.filter_cons, applies_stateMask, applies_wholeMask,
    keyByte_decodeKey, keyState_decodeKey]
  simp [decodeKey, stateCode, keyState, keyByte]

theorem decode_awaitLengthLow :
    decode ctx (.dec (decodeKey .awaitLengthLow b)) =
      .ok (if lengthNonZero ctx.lengthHighByte b then .lenlNz b else .lenlZ) := by
  simp only [decode, decodeDec, rowsApplying, keyRows, List.filter_cons, applies_stateMask, applies_wholeMask,
    keyByte_decodeKey, keyState_decodeKey]
  by_cases h : lengthNonZero ctx.lengthHighByte b
  · simp [decodeKey, stateCode, keyState, keyByte, h]
  · have hz : ctx.lengthHighByte = 0#8 ∧ b = 0#8 := by simpa [lengthNonZero] using h
    simp [decodeKey, stateCode, keyState, keyByte, lengthNonZero, lengthZero, hz]

theorem decode_accumulatingPayload :
    decode ctx (.dec (decodeKey .accumulatingPayload b)) =
      if morePayload ctx.payloadCount ctx.expectedLength then .ok (.payMore b)
      else if lastPayload ctx.payloadCount ctx.expectedLength then .ok (.payLast b)
      else .error .noRow := by
  simp only [decode, decodeDec, rowsApplying, keyRows, List.filter_cons, applies_stateMask, applies_wholeMask,
    keyByte_decodeKey, keyState_decodeKey]
  by_cases h : morePayload ctx.payloadCount ctx.expectedLength <;>
    by_cases h' : lastPayload ctx.payloadCount ctx.expectedLength <;>
    simp [decodeKey, stateCode, keyState, keyByte, h, h']

theorem decode_awaitChecksum :
    decode ctx (.dec (decodeKey .awaitChecksum b)) =
      .ok (if checksumMatches b ctx.crc then .ckOk b else .ckBad b) := by
  simp only [decode, decodeDec, rowsApplying, keyRows, List.filter_cons, applies_stateMask, applies_wholeMask,
    keyByte_decodeKey, keyState_decodeKey]
  by_cases h : checksumMatches b ctx.crc <;> simp [decodeKey, stateCode, keyState, keyByte, h]

theorem decode_rst (inValid : Bool) : decode ctx (.top (portPair true inValid)) = .ok .reset := by
  cases inValid <;> rfl

theorem decode_noByte : decode ctx (.top (portPair false false)) = .ok .decHold := rfl

theorem decode_crcClr (en : Bool) : decode ctx (.eng (portPair true en) b) = .ok .crcClr := by
  cases en <;> rfl

theorem decode_crcByte : decode ctx (.eng (portPair false true) b) = .ok (.crcByte b) := rfl

theorem decode_crcHold : decode ctx (.eng (portPair false false) b) = .ok .crcHold := rfl

end Sys2Proof
end

