-- ==== Sys2Proof/Laws/State.lean ====
section
/-! SUPPORT. The fields of a state after each update of Machine/Ops.lean and Machine/Fetch.lean: one lemma per field per
update, so that no proof unfolds a record update. -/

namespace Sys2Proof.Machine

variable (s : State)

@[simp] theorem State.begin_state : s.begin.state = s.state := rfl
@[simp] theorem State.begin_lengthHighByte : s.begin.lengthHighByte = s.lengthHighByte := rfl
@[simp] theorem State.begin_expectedLength : s.begin.expectedLength = s.expectedLength := rfl
@[simp] theorem State.begin_payloadBuffer : s.begin.payloadBuffer = s.payloadBuffer := rfl
@[simp] theorem State.begin_payloadCount : s.begin.payloadCount = s.payloadCount := rfl
@[simp] theorem State.begin_crc : s.begin.crc = s.crc := rfl
@[simp] theorem State.begin_out : s.begin.out = none := rfl
@[simp] theorem State.begin_encFrame : s.begin.encFrame = none := rfl
@[simp] theorem State.begin_pending : s.begin.pending = s.pending := rfl

@[simp] theorem State.goto_state (tag : ControlState) : (s.goto tag).state = tag := rfl
@[simp] theorem State.goto_lengthHighByte (tag : ControlState) : (s.goto tag).lengthHighByte = s.lengthHighByte := rfl
@[simp] theorem State.goto_expectedLength (tag : ControlState) : (s.goto tag).expectedLength = s.expectedLength := rfl
@[simp] theorem State.goto_payloadBuffer (tag : ControlState) : (s.goto tag).payloadBuffer = s.payloadBuffer := rfl
@[simp] theorem State.goto_payloadCount (tag : ControlState) : (s.goto tag).payloadCount = s.payloadCount := rfl
@[simp] theorem State.goto_crc (tag : ControlState) : (s.goto tag).crc = s.crc := rfl
@[simp] theorem State.goto_out (tag : ControlState) : (s.goto tag).out = s.out := rfl
@[simp] theorem State.goto_encFrame (tag : ControlState) : (s.goto tag).encFrame = s.encFrame := rfl
@[simp] theorem State.goto_pending (tag : ControlState) : (s.goto tag).pending = s.pending := rfl

@[simp] theorem State.absorb_state (b : Byte) : (s.absorb b).state = s.state := rfl
@[simp] theorem State.absorb_lengthHighByte (b : Byte) : (s.absorb b).lengthHighByte = s.lengthHighByte := rfl
@[simp] theorem State.absorb_expectedLength (b : Byte) : (s.absorb b).expectedLength = s.expectedLength := rfl
@[simp] theorem State.absorb_payloadBuffer (b : Byte) : (s.absorb b).payloadBuffer = s.payloadBuffer := rfl
@[simp] theorem State.absorb_payloadCount (b : Byte) : (s.absorb b).payloadCount = s.payloadCount := rfl
@[simp] theorem State.absorb_crc (b : Byte) : (s.absorb b).crc = upd s.crc b := rfl
@[simp] theorem State.absorb_out (b : Byte) : (s.absorb b).out = s.out := rfl
@[simp] theorem State.absorb_encFrame (b : Byte) : (s.absorb b).encFrame = s.encFrame := rfl
@[simp] theorem State.absorb_pending (b : Byte) : (s.absorb b).pending = s.pending := rfl

@[simp] theorem State.clearCrc_state : s.clearCrc.state = s.state := rfl
@[simp] theorem State.clearCrc_lengthHighByte : s.clearCrc.lengthHighByte = s.lengthHighByte := rfl
@[simp] theorem State.clearCrc_expectedLength : s.clearCrc.expectedLength = s.expectedLength := rfl
@[simp] theorem State.clearCrc_payloadBuffer : s.clearCrc.payloadBuffer = s.payloadBuffer := rfl
@[simp] theorem State.clearCrc_payloadCount : s.clearCrc.payloadCount = s.payloadCount := rfl
@[simp] theorem State.clearCrc_crc : s.clearCrc.crc = Config.crcInit := rfl
@[simp] theorem State.clearCrc_out : s.clearCrc.out = s.out := rfl
@[simp] theorem State.clearCrc_encFrame : s.clearCrc.encFrame = s.encFrame := rfl
@[simp] theorem State.clearCrc_pending : s.clearCrc.pending = s.pending := rfl

@[simp] theorem State.shiftCrc_state : s.shiftCrc.state = s.state := rfl
@[simp] theorem State.shiftCrc_lengthHighByte : s.shiftCrc.lengthHighByte = s.lengthHighByte := rfl
@[simp] theorem State.shiftCrc_expectedLength : s.shiftCrc.expectedLength = s.expectedLength := rfl
@[simp] theorem State.shiftCrc_payloadBuffer : s.shiftCrc.payloadBuffer = s.payloadBuffer := rfl
@[simp] theorem State.shiftCrc_payloadCount : s.shiftCrc.payloadCount = s.payloadCount := rfl
@[simp] theorem State.shiftCrc_crc : s.shiftCrc.crc = shift1 s.crc := rfl
@[simp] theorem State.shiftCrc_out : s.shiftCrc.out = s.out := rfl
@[simp] theorem State.shiftCrc_encFrame : s.shiftCrc.encFrame = s.encFrame := rfl
@[simp] theorem State.shiftCrc_pending : s.shiftCrc.pending = s.pending := rfl

@[simp] theorem State.setLengthHigh_state (b : Byte) : (s.setLengthHigh b).state = s.state := rfl
@[simp] theorem State.setLengthHigh_lengthHighByte (b : Byte) : (s.setLengthHigh b).lengthHighByte = b := rfl
@[simp] theorem State.setLengthHigh_expectedLength (b : Byte) : (s.setLengthHigh b).expectedLength = s.expectedLength := rfl
@[simp] theorem State.setLengthHigh_payloadBuffer (b : Byte) : (s.setLengthHigh b).payloadBuffer = s.payloadBuffer := rfl
@[simp] theorem State.setLengthHigh_payloadCount (b : Byte) : (s.setLengthHigh b).payloadCount = s.payloadCount := rfl
@[simp] theorem State.setLengthHigh_crc (b : Byte) : (s.setLengthHigh b).crc = s.crc := rfl
@[simp] theorem State.setLengthHigh_out (b : Byte) : (s.setLengthHigh b).out = s.out := rfl
@[simp] theorem State.setLengthHigh_encFrame (b : Byte) : (s.setLengthHigh b).encFrame = s.encFrame := rfl
@[simp] theorem State.setLengthHigh_pending (b : Byte) : (s.setLengthHigh b).pending = s.pending := rfl

@[simp] theorem State.setLength_state (len : Half) : (s.setLength len).state = s.state := rfl
@[simp] theorem State.setLength_lengthHighByte (len : Half) : (s.setLength len).lengthHighByte = s.lengthHighByte := rfl
@[simp] theorem State.setLength_expectedLength (len : Half) : (s.setLength len).expectedLength = len := rfl
@[simp] theorem State.setLength_payloadBuffer (len : Half) : (s.setLength len).payloadBuffer = s.payloadBuffer := rfl
@[simp] theorem State.setLength_payloadCount (len : Half) : (s.setLength len).payloadCount = s.payloadCount := rfl
@[simp] theorem State.setLength_crc (len : Half) : (s.setLength len).crc = s.crc := rfl
@[simp] theorem State.setLength_out (len : Half) : (s.setLength len).out = s.out := rfl
@[simp] theorem State.setLength_encFrame (len : Half) : (s.setLength len).encFrame = s.encFrame := rfl
@[simp] theorem State.setLength_pending (len : Half) : (s.setLength len).pending = s.pending := rfl

@[simp] theorem State.emit_state (p : List Byte) : (s.emit p).state = s.state := rfl
@[simp] theorem State.emit_lengthHighByte (p : List Byte) : (s.emit p).lengthHighByte = s.lengthHighByte := rfl
@[simp] theorem State.emit_expectedLength (p : List Byte) : (s.emit p).expectedLength = s.expectedLength := rfl
@[simp] theorem State.emit_payloadBuffer (p : List Byte) : (s.emit p).payloadBuffer = s.payloadBuffer := rfl
@[simp] theorem State.emit_payloadCount (p : List Byte) : (s.emit p).payloadCount = s.payloadCount := rfl
@[simp] theorem State.emit_crc (p : List Byte) : (s.emit p).crc = s.crc := rfl
@[simp] theorem State.emit_out (p : List Byte) : (s.emit p).out = some p := rfl
@[simp] theorem State.emit_encFrame (p : List Byte) : (s.emit p).encFrame = s.encFrame := rfl
@[simp] theorem State.emit_pending (p : List Byte) : (s.emit p).pending = s.pending := rfl

@[simp] theorem State.fullReset_state : s.fullReset.state = .idle := rfl
@[simp] theorem State.fullReset_lengthHighByte : s.fullReset.lengthHighByte = 0x00#8 := rfl
@[simp] theorem State.fullReset_expectedLength : s.fullReset.expectedLength = 0x0000#16 := rfl
@[simp] theorem State.fullReset_payloadBuffer : s.fullReset.payloadBuffer = [] := rfl
@[simp] theorem State.fullReset_payloadCount : s.fullReset.payloadCount = 0#16 := rfl
@[simp] theorem State.fullReset_crc : s.fullReset.crc = Config.crcInit := rfl
@[simp] theorem State.fullReset_out : s.fullReset.out = s.out := rfl
@[simp] theorem State.fullReset_encFrame : s.fullReset.encFrame = s.encFrame := rfl
@[simp] theorem State.fullReset_pending : s.fullReset.pending = s.pending := rfl

@[simp] theorem State.advance_state : s.advance.state = s.state := rfl
@[simp] theorem State.advance_lengthHighByte : s.advance.lengthHighByte = s.lengthHighByte := rfl
@[simp] theorem State.advance_expectedLength : s.advance.expectedLength = s.expectedLength := rfl
@[simp] theorem State.advance_payloadBuffer : s.advance.payloadBuffer = s.payloadBuffer := rfl
@[simp] theorem State.advance_payloadCount : s.advance.payloadCount = s.payloadCount := rfl
@[simp] theorem State.advance_crc : s.advance.crc = s.crc := rfl
@[simp] theorem State.advance_out : s.advance.out = s.out := rfl
@[simp] theorem State.advance_encFrame : s.advance.encFrame = s.encFrame := rfl
@[simp] theorem State.advance_pending : s.advance.pending = s.pending.tail := rfl

@[simp] theorem State.present_state (v : Stimulus) : (s.present v).state = s.state := rfl
@[simp] theorem State.present_lengthHighByte (v : Stimulus) : (s.present v).lengthHighByte = s.lengthHighByte := rfl
@[simp] theorem State.present_expectedLength (v : Stimulus) : (s.present v).expectedLength = s.expectedLength := rfl
@[simp] theorem State.present_payloadBuffer (v : Stimulus) : (s.present v).payloadBuffer = s.payloadBuffer := rfl
@[simp] theorem State.present_payloadCount (v : Stimulus) : (s.present v).payloadCount = s.payloadCount := rfl
@[simp] theorem State.present_crc (v : Stimulus) : (s.present v).crc = s.crc := rfl
@[simp] theorem State.present_out (v : Stimulus) : (s.present v).out = s.out := rfl
@[simp] theorem State.present_encFrame (v : Stimulus) : (s.present v).encFrame = s.encFrame := rfl
@[simp] theorem State.present_pending (v : Stimulus) : (s.present v).pending = v :: s.pending := rfl

@[simp] theorem State.begin_begin : s.begin.begin = s.begin := rfl

@[simp] theorem State.present_advance (v : Stimulus) : (s.present v).advance = s := rfl

/-- After a full reset from the results-cleared state only the pending port values are left of the old state: it is the
state after RESET (10_state.md R35). -/
theorem State.begin_fullReset : s.begin.fullReset = { State.reset with pending := s.pending } := rfl

end Sys2Proof.Machine
end

