-- ==== Sys2Proof/Laws/Memory.lean ====
section
/-! SUPPORT. The laws of the payload buffer: read after write, the canonical form kept, the append at the write index, and
what each buffer primitive can do. -/

namespace Sys2Proof.Machine

theorem Memory.read_write_same (m : Memory) (i : Nat) (v : Byte) : (m.write i v).read i = some v := by
  induction m with
  | nil => simp [Memory.write, Memory.read]
  | cons c rest ih =>
    obtain ⟨a, w⟩ := c
    simp only [Memory.write]
    split
    · simp [Memory.read]
    · split
      · simp [Memory.read]
      · next h => simp [Memory.read, h, ih]

theorem Memory.read_write_other (m : Memory) (i j : Nat) (v : Byte) (h : j ≠ i) :
    (m.write i v).read j = m.read j := by
  induction m with
  | nil => simp [Memory.write, Memory.read, h]
  | cons c rest ih =>
    obtain ⟨a, w⟩ := c
    simp only [Memory.write]
    split
    · simp [Memory.read, h]
    · split
      · next h' => subst h'; simp [Memory.read, h]
      · simp [Memory.read, ih]

/-- The canonical form as a property of the indices. -/
theorem Memory.wf_iff (m : Memory) :
    m.wf = true ↔ (m.map Prod.fst).Pairwise (· < ·) ∧ ∀ a ∈ m.map Prod.fst, a < Config.payloadMax := by
  induction m with
  | nil => simp [Memory.wf]
  | cons c rest ih =>
    obtain ⟨a, v⟩ := c
    cases rest with
    | nil => simp [Memory.wf]
    | cons d rest =>
      obtain ⟨b, w⟩ := d
      simp only [Memory.wf, Bool.and_eq_true, decide_eq_true_eq, ih, List.map_cons, List.pairwise_cons, List.mem_cons]
      constructor
      · rintro ⟨hab, ⟨hb, hp⟩, hlt⟩
        refine ⟨⟨?_, hb, hp⟩, ?_⟩
        · rintro x (rfl | hx)
          · exact hab
          · exact hab.trans (hb x hx)
        · rintro x (rfl | hx)
          · exact hab.trans (hlt b (Or.inl rfl))
          · exact hlt x hx
      · rintro ⟨⟨ha, hb, hp⟩, hlt⟩
        exact ⟨ha b (Or.inl rfl), ⟨hb, hp⟩, fun x hx => hlt x (Or.inr hx)⟩

theorem Memory.mem_write (m : Memory) (i : Nat) (v : Byte) (a : Nat) (h : a ∈ (m.write i v).map Prod.fst) :
    a = i ∨ a ∈ m.map Prod.fst := by
  induction m with
  | nil => simpa [Memory.write] using h
  | cons c rest ih =>
    obtain ⟨b, w⟩ := c
    simp only [Memory.write] at h
    split at h
    · simpa using h
    · split at h
      · simp only [List.map_cons, List.mem_cons] at h ⊢
        tauto
      · simp only [List.map_cons, List.mem_cons] at h ⊢
        rcases h with h | h
        · exact Or.inr (Or.inl h)
        · rcases ih h with h | h
          · exact Or.inl h
          · exact Or.inr (Or.inr h)

/-- A write keeps the canonical form. -/
theorem Memory.write_wf (m : Memory) (i : Nat) (v : Byte) (hm : m.wf = true) (hi : i < Config.payloadMax) :
    (m.write i v).wf = true := by
  rw [Memory.wf_iff] at hm ⊢
  obtain ⟨hp, hlt⟩ := hm
  refine ⟨?_, fun a ha => (Memory.mem_write m i v a ha).elim (fun h => h ▸ hi) (hlt a)⟩
  induction m with
  | nil => simp [Memory.write]
  | cons c rest ih =>
    obtain ⟨b, w⟩ := c
    simp only [List.map_cons, List.pairwise_cons, List.mem_cons, forall_eq_or_imp] at hp hlt
    simp only [Memory.write]
    split
    · next h =>
      simp only [List.map_cons, List.pairwise_cons, List.mem_cons, forall_eq_or_imp]
      exact ⟨⟨h, fun x hx => h.trans (hp.1 x hx)⟩, hp⟩
    · split
      · next h => subst h; simpa using hp
      · next h1 h2 =>
        simp only [List.map_cons, List.pairwise_cons]
        refine ⟨fun x hx => ?_, ih hp.2 hlt.2⟩
        rcases Memory.mem_write rest i v x hx with h | h
        · omega
        · exact hp.1 x h

/-- A write at an index above every listed one is an append. -/
theorem Memory.write_above (m : Memory) (i : Nat) (v : Byte) (h : ∀ a ∈ m.map Prod.fst, a < i) :
    m.write i v = m ++ [(i, v)] := by
  induction m with
  | nil => simp [Memory.write]
  | cons c rest ih =>
    obtain ⟨a, w⟩ := c
    simp only [List.map_cons, List.mem_cons, forall_eq_or_imp] at h
    simp [Memory.write, ih h.2, Nat.not_lt.mpr (le_of_lt h.1), (ne_of_lt h.1).symm]

/-- A buffer that lists exactly the indices below `n` is in canonical form, as long as they are locations. -/
theorem Memory.wf_of_range (m : Memory) (n : Nat) (hm : m.map Prod.fst = List.range n) (hn : n ≤ Config.payloadMax) :
    m.wf = true := by
  rw [Memory.wf_iff, hm]
  exact ⟨List.pairwise_lt_range, fun a ha => (List.mem_range.mp ha).trans_le hn⟩

/-- An index that is not listed reads as nothing. -/
theorem Memory.read_eq_none (m : Memory) (i : Nat) (h : i ∉ m.map Prod.fst) : m.read i = none := by
  induction m with
  | nil => rfl
  | cons c rest ih =>
    obtain ⟨a, w⟩ := c
    simp only [List.map_cons, List.mem_cons, not_or] at h
    simp [Memory.read, h.1, ih h.2]

/-- An entry of a buffer without repeats is what its index reads as. -/
theorem Memory.read_getElem (m : Memory) (hm : (m.map Prod.fst).Nodup) (k : Nat) (hk : k < m.length) :
    m.read m[k].1 = some m[k].2 := by
  induction m generalizing k with
  | nil => simp at hk
  | cons c rest ih =>
    obtain ⟨a, w⟩ := c
    simp only [List.map_cons, List.nodup_cons] at hm
    cases k with
    | zero => simp [Memory.read]
    | succ k =>
      have hk' : k < rest.length := by simpa using hk
      have hne : rest[k].1 ≠ a := fun h => hm.1 (h ▸ List.mem_map_of_mem (List.getElem_mem hk'))
      simp [Memory.read, hne, ih hm.2 k hk']

theorem State.memWrite_ok {i : Nat} {v : Byte} {s t : State} (h : s.memWrite i v = .ok t) :
    i < Config.payloadMax ∧ t = { s with payloadBuffer := s.payloadBuffer.write i v } := by
  unfold State.memWrite at h
  split at h
  · next hi => exact ⟨hi, by injection h with h; exact h.symm⟩
  · cases h

theorem State.memRead_ok {i : Nat} {v : Byte} {s : State} (h : s.memRead i = .ok v) :
    i < s.payloadCount.toNat ∧ s.payloadBuffer.read i = some v := by
  unfold State.memRead at h
  split at h
  · next hi =>
    split at h
    · next hv => injection h with h; exact ⟨hi, h ▸ hv⟩
    · cases h
  · cases h

/-- All that an append can do: it writes one byte at the write index, inside the buffer, and counts it. -/
theorem State.append_ok {b : Byte} {s t : State} (h : s.append b = .ok t) :
    s.payloadCount.toNat < Config.payloadMax ∧
      t = { s with
        payloadBuffer := s.payloadBuffer.write s.payloadCount.toNat b
        payloadCount := s.payloadCount + 1#16 } := by
  unfold State.append at h
  split at h
  · next u hu =>
    obtain ⟨hlt, rfl⟩ := State.memWrite_ok hu
    injection h with h
    exact ⟨hlt, h.symm⟩
  · cases h

/-- An append below the last location succeeds. -/
theorem State.append_eq {b : Byte} {s : State} (h : s.payloadCount.toNat < Config.payloadMax) :
    s.append b = .ok { s with
      payloadBuffer := s.payloadBuffer.write s.payloadCount.toNat b
      payloadCount := s.payloadCount + 1#16 } := by
  simp [State.append, State.memWrite, h]

/-- Reading consecutive indices of a buffer that lists exactly the indices below the count gives the bytes in order. -/
theorem State.readFrom_eq (s : State) (h : s.payloadBuffer.map Prod.fst = List.range s.payloadCount.toNat) (n i : Nat)
    (hn : i + n = s.payloadCount.toNat) : s.readFrom i n = .ok (s.payload.drop i) := by
  have hlen : s.payloadBuffer.length = s.payloadCount.toNat := by
    simpa using congrArg List.length h
  induction n generalizing i with
  | zero =>
    have : s.payload.length ≤ i := by simp [State.payload, hlen]; omega
    simp [State.readFrom, List.drop_eq_nil_of_le this]
  | succ n ih =>
    have hi : i < s.payloadBuffer.length := by omega
    have hfst : s.payloadBuffer[i].1 = i := by
      have := List.getElem_of_eq h (i := i) (by simpa using hi)
      simpa using this
    have hnodup : (s.payloadBuffer.map Prod.fst).Nodup := h ▸ List.nodup_range
    have hread : s.payloadBuffer.read i = some s.payloadBuffer[i].2 := by
      have := Memory.read_getElem s.payloadBuffer hnodup i hi
      rwa [hfst] at this
    have hi' : i < s.payloadCount.toNat := by omega
    have hp : i < s.payload.length := by simpa [State.payload] using hi
    have hget : s.payload[i] = s.payloadBuffer[i].2 := by simp [State.payload]
    rw [List.drop_eq_getElem_cons hp, hget]
    simp [State.readFrom, State.memRead, hi', hread, ih (i + 1) (by omega)]

/-- The read of the whole payload (20_memory.md R43). -/
theorem State.readPayload_eq (s : State) (h : s.payloadBuffer.map Prod.fst = List.range s.payloadCount.toNat) :
    s.readPayload = .ok s.payload := by
  simpa [State.readPayload] using State.readFrom_eq s h s.payloadCount.toNat 0 (by simp)

end Sys2Proof.Machine
end

