-- ==== Sys2Proof/Laws/Ops.lean ====
section
/-! SUPPORT. What each shared operation can do, once: the guard of a DEC operation, an effect through a buffer primitive,
and the count of the buffer in a legal state. -/

namespace Sys2Proof.Machine

theorem State.legal_iff (s : State) :
    s.Legal ↔ s.regsLegal = true ∧ s.payloadBuffer.map Prod.fst = List.range s.payloadCount.toNat ∧
      s.crc = crcCompute s.frameBytes := by
  simp [State.Legal, State.legal, and_assoc]

theorem State.Legal.regs {s : State} (h : s.Legal) : s.regsLegal = true := (s.legal_iff.mp h).1

theorem State.Legal.indices {s : State} (h : s.Legal) :
    s.payloadBuffer.map Prod.fst = List.range s.payloadCount.toNat := (s.legal_iff.mp h).2.1

theorem State.Legal.crc_eq {s : State} (h : s.Legal) : s.crc = crcCompute s.frameBytes := (s.legal_iff.mp h).2.2

/-- All that a guarded operation can do: it answers its effect, in a legal state in which its row applies, or refuses. -/
theorem perform_cases (c : Bool) (s : State) (e : Host.Outcome State Fault Refusal) :
    (s.Legal ∧ c = true ∧ perform c s e = e) ∨
      (s.Legal ∧ c = false ∧ perform c s e = .refused .notSelected) ∨
      (¬ s.Legal ∧ perform c s e = .refused .outsideReachable) := by
  unfold perform
  cases h : s.legal <;> cases c <;> simp [State.Legal, h]

theorem perform_next {c : Bool} {s t : State} {e : Host.Outcome State Fault Refusal} (h : perform c s e = .next t) :
    s.Legal ∧ c = true ∧ e = .next t := by
  rcases perform_cases c s e with ⟨hl, hc, he⟩ | ⟨_, _, he⟩ | ⟨_, he⟩
  · exact ⟨hl, hc, he ▸ h⟩
  · rw [he] at h; cases h
  · rw [he] at h; cases h

theorem perform_selected {c : Bool} {s : State} (e : Host.Outcome State Fault Refusal) (hl : s.Legal) (hc : c = true) :
    perform c s e = e := by
  simp [perform, show s.legal = true from hl, hc]

theorem orFault_next {α : Type} {r : Except Fault α} {k : α → Host.Outcome State Fault Refusal} {t : State}
    (h : orFault r k = .next t) : ∃ a, r = .ok a ∧ k a = .next t := by
  cases r with
  | ok a => exact ⟨a, rfl, h⟩
  | error f => cases h

@[simp] theorem orFault_ok {α : Type} (a : α) (k : α → Host.Outcome State Fault Refusal) : orFault (.ok a) k = k a := rfl

/-- A legal buffer holds as many bytes as are counted. -/
theorem State.Legal.payload_length {s : State} (h : s.Legal) : s.payload.length = s.payloadCount.toNat := by
  simpa [State.payload] using congrArg List.length h.indices

/-- In a legal state the payload can be read whole. -/
theorem State.Legal.readPayload {s : State} (h : s.Legal) : s.readPayload = .ok s.payload :=
  State.readPayload_eq s h.indices

/-- In AccumulatingPayload a legal count is below the length. -/
theorem State.Legal.count_lt {s : State} (h : s.Legal) (hs : s.state = .accumulatingPayload) :
    s.payloadCount.toNat < s.expectedLength.toNat := by
  have := h.regs
  simp only [State.regsLegal, hs, Bool.and_eq_true, decide_eq_true_eq] at this
  exact this.1

/-- In AccumulatingPayload a legal append succeeds, at the end of the buffer. -/
theorem State.Legal.append {s : State} (h : s.Legal) (hs : s.state = .accumulatingPayload) (b : Byte) :
    s.begin.append b = .ok { s.begin with
      payloadBuffer := s.payloadBuffer ++ [(s.payloadCount.toNat, b)]
      payloadCount := s.payloadCount + 1#16 } := by
  have hlt : s.payloadCount.toNat < Config.payloadMax := by
    have := h.count_lt hs
    have := s.expectedLength.isLt
    simp only [Config.payloadMax]
    omega
  have hw : s.payloadBuffer.write s.payloadCount.toNat b = s.payloadBuffer ++ [(s.payloadCount.toNat, b)] := by
    refine Memory.write_above _ _ _ fun a ha => ?_
    rw [h.indices] at ha
    exact List.mem_range.mp ha
  rw [State.append_eq (by simpa using hlt)]
  simp [hw]

/-- In AwaitChecksum the register is the check value (41_frame_decoder.md R116). -/
theorem State.Legal.crc_eq_checkValue {s : State} (h : s.Legal) (hs : s.state = .awaitChecksum) :
    s.crc = s.checkValue := by
  rw [h.crc_eq, State.frameBytes, hs, State.checkValue]

end Sys2Proof.Machine
end

