-- ==== Sys2Proof/Laws/PerInstr.lean ====
section
/-! SUPPORT. One family of laws about the operations as syntax: the encoder's word obeys the match and mask that
spec/opcode_table.json gives the operation's row. -/

namespace Sys2Proof.Laws

/-- The (match, mask) of an operation's row of the table, where the table gives it one. -/
def tableBits : Instr → Option (Nat × Nat)
  | .idleHit => some (0x055, 0x7FF)
  | .idleMiss _ => some (0x000, 0x700)
  | .h1Hit => some (0x155, 0x7FF)
  | .h1Miss _ => some (0x100, 0x700)
  | .h2Hit => some (0x2AA, 0x7FF)
  | .h2Miss _ => some (0x200, 0x700)
  | .lenh _ => some (0x300, 0x700)
  | .lenlNz _ => some (0x400, 0x700)
  | .lenlZ => some (0x400, 0x7FF)
  | .payMore _ => some (0x500, 0x700)
  | .payLast _ => some (0x500, 0x700)
  | .ckOk _ => some (0x600, 0x700)
  | .ckBad _ => some (0x600, 0x700)
  | .reset => some (0x2, 0x2)
  | .decHold => some (0x0, 0x3)
  | .crcClr => some (0x2, 0x2)
  | .crcByte _ => some (0x1, 0x3)
  | .crcHold => some (0x0, 0x3)
  | .crcBit => none
  | .crcCompute _ => none
  | .encodeFrame _ => none

/-- A word as the number the table's match and mask are compared with. -/
def wordBits : OpWord → Nat
  | .dec key => key.toNat
  | .top key => key.toNat
  | .eng key _ => key.toNat

/-- The operation has a word exactly where the table gives it bits, and the word obeys them. -/
def RowBits.holds (i : Instr) : Bool :=
  match encode i, tableBits i with
  | some w, some (m, k) => wordBits w &&& k == m
  | none, none => true
  | _, _ => false

def RowBits.Statement (i : Instr) : Prop := RowBits.holds i = true

theorem RowBits.idleHit : RowBits.Statement .idleHit := by unfold RowBits.Statement; decide
theorem RowBits.idleMiss (b : Byte) : RowBits.Statement (.idleMiss b) := by unfold RowBits.Statement; revert b; decide
theorem RowBits.h1Hit : RowBits.Statement .h1Hit := by unfold RowBits.Statement; decide
theorem RowBits.h1Miss (b : Byte) : RowBits.Statement (.h1Miss b) := by unfold RowBits.Statement; revert b; decide
theorem RowBits.h2Hit : RowBits.Statement .h2Hit := by unfold RowBits.Statement; decide
theorem RowBits.h2Miss (b : Byte) : RowBits.Statement (.h2Miss b) := by unfold RowBits.Statement; revert b; decide
theorem RowBits.lenh (b : Byte) : RowBits.Statement (.lenh b) := by unfold RowBits.Statement; revert b; decide
theorem RowBits.lenlNz (b : Byte) : RowBits.Statement (.lenlNz b) := by unfold RowBits.Statement; revert b; decide
theorem RowBits.lenlZ : RowBits.Statement .lenlZ := by unfold RowBits.Statement; decide
theorem RowBits.payMore (b : Byte) : RowBits.Statement (.payMore b) := by unfold RowBits.Statement; revert b; decide
theorem RowBits.payLast (b : Byte) : RowBits.Statement (.payLast b) := by unfold RowBits.Statement; revert b; decide
theorem RowBits.ckOk (b : Byte) : RowBits.Statement (.ckOk b) := by unfold RowBits.Statement; revert b; decide
theorem RowBits.ckBad (b : Byte) : RowBits.Statement (.ckBad b) := by unfold RowBits.Statement; revert b; decide
theorem RowBits.reset : RowBits.Statement .reset := by unfold RowBits.Statement; decide
theorem RowBits.decHold : RowBits.Statement .decHold := by unfold RowBits.Statement; decide
theorem RowBits.crcClr : RowBits.Statement .crcClr := by unfold RowBits.Statement; decide
theorem RowBits.crcByte (din : Byte) : RowBits.Statement (.crcByte din) := by unfold RowBits.Statement; revert din; decide
theorem RowBits.crcHold : RowBits.Statement .crcHold := by unfold RowBits.Statement; decide
theorem RowBits.crcBit : RowBits.Statement .crcBit := rfl
theorem RowBits.crcCompute (bytes : List Byte) : RowBits.Statement (.crcCompute bytes) := rfl
theorem RowBits.encodeFrame (payload : List Byte) : RowBits.Statement (.encodeFrame payload) := rfl

end Sys2Proof.Laws
end

