-- ==== Sys2Proof/Laws/Step.lean ====
section
/-! SUPPORT. Which operation a byte's step performs, once for each operation, what ENG's ports command, and the outcomes of a
stream taken apart: later proofs cite these and unfold neither the step nor the decoder. -/

namespace Sys2Proof.Machine

variable {s : State} {b : Byte}

/-- The step of a byte performs what the key selects. -/
theorem consume_eq (b : Byte) (s : State) :
    consume b s =
      match decode s.decodeContext (.dec (decodeKey s.state b)) with
      | .ok i => exec i s
      | .error e => .refused (.undecodable e) := rfl

theorem consume_of_decode {i : Instr} (h : decode s.decodeContext (.dec (decodeKey s.state b)) = .ok i) :
    consume b s = exec i s := by
  rw [consume_eq, h]

theorem consume_idleHit (hs : s.state = .idle) (hb : b = Config.hdr0) :
    consume b s = exec .idleHit s :=
  consume_of_decode (by rw [hs, decode_idle]; simp [hb])

theorem consume_idleMiss (hs : s.state = .idle) (hb : b ≠ Config.hdr0) :
    consume b s = exec (.idleMiss b) s :=
  consume_of_decode (by rw [hs, decode_idle]; simp [hb])

theorem consume_h1Hit (hs : s.state = .awaitFirstHeaderByte) (hb : b = Config.hdr0) :
    consume b s = exec .h1Hit s :=
  consume_of_decode (by rw [hs, decode_awaitFirstHeaderByte]; simp [hb])

theorem consume_h1Miss (hs : s.state = .awaitFirstHeaderByte) (hb : b ≠ Config.hdr0) :
    consume b s = exec (.h1Miss b) s :=
  consume_of_decode (by rw [hs, decode_awaitFirstHeaderByte]; simp [hb])

theorem consume_h2Hit (hs : s.state = .awaitSecondHeaderByte) (hb : b = Config.hdr1) :
    consume b s = exec .h2Hit s :=
  consume_of_decode (by rw [hs, decode_awaitSecondHeaderByte]; simp [hb])

theorem consume_h2Miss (hs : s.state = .awaitSecondHeaderByte) (hb : b ≠ Config.hdr1) :
    consume b s = exec (.h2Miss b) s :=
  consume_of_decode (by rw [hs, decode_awaitSecondHeaderByte]; simp [hb])

theorem consume_lenh (hs : s.state = .awaitLengthHigh) :
    consume b s = exec (.lenh b) s :=
  consume_of_decode (by rw [hs, decode_awaitLengthHigh])

theorem consume_lenlNz (hs : s.state = .awaitLengthLow) (hb : lengthNonZero s.lengthHighByte b = true) :
    consume b s = exec (.lenlNz b) s :=
  consume_of_decode (by rw [hs, decode_awaitLengthLow]; simp [State.decodeContext, hb])

theorem consume_lenlZ (hs : s.state = .awaitLengthLow) (hb : lengthNonZero s.lengthHighByte b = false) :
    consume b s = exec .lenlZ s :=
  consume_of_decode (by rw [hs, decode_awaitLengthLow]; simp [State.decodeContext, hb])

theorem consume_payMore (hs : s.state = .accumulatingPayload) (hb : s.payloadCount.toNat + 1 < s.expectedLength.toNat) :
    consume b s = exec (.payMore b) s :=
  consume_of_decode (by rw [hs, decode_accumulatingPayload]; simp [State.decodeContext, morePayload, hb])

theorem consume_payLast (hs : s.state = .accumulatingPayload) (hb : s.payloadCount.toNat + 1 = s.expectedLength.toNat) :
    consume b s = exec (.payLast b) s :=
  consume_of_decode (by rw [hs, decode_accumulatingPayload]; simp [State.decodeContext, morePayload, lastPayload, hb])

theorem consume_ckOk (hs : s.state = .awaitChecksum) (hb : b = s.crc) :
    consume b s = exec (.ckOk b) s :=
  consume_of_decode (by rw [hs, decode_awaitChecksum]; simp [State.decodeContext, checksumMatches, hb])

theorem consume_ckBad (hs : s.state = .awaitChecksum) (hb : b ≠ s.crc) :
    consume b s = exec (.ckBad b) s :=
  consume_of_decode (by rw [hs, decode_awaitChecksum]; simp [State.decodeContext, checksumMatches, hb])

@[simp] theorem engNext_clear (en : Bool) (din q : Byte) : engNext ⟨true, en, din⟩ q = Config.crcInit := rfl

@[simp] theorem engNext_byte (din q : Byte) : engNext ⟨false, true, din⟩ q = upd q din := rfl

@[simp] theorem engNext_hold (din q : Byte) : engNext ⟨false, false, din⟩ q = q := rfl

/-- The command that ENG's decoder reads from its ports (30_encoding.md R71). -/
theorem decode_engWord (ctx : DecodeContext) (p : EngPorts) :
    decode ctx (engWord p) =
      .ok (if p.crcClr then .crcClr else if p.crcEn then .crcByte p.crcDin else .crcHold) := by
  obtain ⟨clr, en, din⟩ := p
  cases clr <;> cases en <;> simp [engWord, decode_crcClr, decode_crcByte, decode_crcHold]

/-- A stream taken one byte at a time: if the first step answers `t`, the rest is fed to `t`. -/
theorem feed_cons {t u : State} {rest : List Byte} {emitted : List (List Byte)} (h : consume b s = .next t)
    (hr : feed rest t = .next (u, emitted)) : feed (b :: rest) s = .next (u, t.out.toList ++ emitted) := by
  simp [feed, h, hr]

/-- Two streams one after the other. -/
theorem feed_append {t u : State} {xs ys : List Byte} {e₁ e₂ : List (List Byte)} (hx : feed xs s = .next (t, e₁))
    (hy : feed ys t = .next (u, e₂)) : feed (xs ++ ys) s = .next (u, e₁ ++ e₂) := by
  induction xs generalizing s e₁ with
  | nil =>
    simp only [feed, Host.Outcome.next.injEq, Prod.mk.injEq] at hx
    obtain ⟨rfl, rfl⟩ := hx
    simpa using hy
  | cons x xs ih =>
    simp only [feed] at hx
    split at hx
    · next v hv =>
      split at hx
      · next w e hw =>
        simp only [Host.Outcome.next.injEq, Prod.mk.injEq] at hx
        obtain ⟨rfl, rfl⟩ := hx
        rw [List.cons_append, feed_cons hv (ih hw), List.append_assoc]
      · cases hx
      · cases hx
    · cases hx
    · cases hx

/-- The state after RESET is legal, whatever is pending. -/
theorem legal_of_reset (v : List Stimulus) : State.Legal { State.reset with pending := v } := by
  simp [State.Legal, State.legal, State.regsLegal, State.frameBytes, State.reset, crcCompute]

end Sys2Proof.Machine
end

