-- ==== Sys2Proof/Tests/Slice0.lean ====
section
/-! SUPPORT. Tests of one step or one value each, with results from 95_test_vectors.md (V<n>) or from the rule named; the
smoke tests of WellFormed; the decoding of words written out from 30_encoding.md; and, for each statement with
hypotheses, a state and operands that meet them. -/

namespace Sys2Proof.Tests

open Sys2Proof Sys2Proof.Machine

set_option maxRecDepth 2000

/-- A state as 95_test_vectors.md writes it: `state / lengthHighByte / expectedLength / payloadCount / crc`, with the
buffer's bytes, whose number is the count. -/
def st (tag : ControlState) (high : Byte) (len : Half) (buf : List Byte) (crc : Byte) : State :=
  { State.reset with
    state := tag
    lengthHighByte := high
    expectedLength := len
    payloadBuffer := (List.range buf.length).zip buf
    payloadCount := BitVec.ofNat 16 buf.length
    crc := crc }

/-- The outcome is this next state. -/
def nextIs (o : Host.Outcome State Fault Refusal) (t : State) : Bool :=
  match o with
  | .next u => u == t
  | .fault _ => false
  | .refused _ => false

/-- The outcome is this refusal. -/
def refusedIs (o : Host.Outcome State Fault Refusal) (r : Refusal) : Bool :=
  match o with
  | .next _ => false
  | .fault _ => false
  | .refused q => q == r

/-- The step with the byte on the ports answers `t`. -/
def onByte (s : State) (b : Byte) (t : State) : Bool := nextIs (consume b s) t

/-- The operation the decoder answers. -/
def reads (ctx : DecodeContext) (w : OpWord) (i : Instr) : Bool :=
  match decode ctx w with
  | .ok j => j == i
  | .error _ => false

/-! ### WellFormed refuses an ill-formed term for each check -/

theorem test_wf_idleMiss_header : illFormed? (.idleMiss 0x55#8) = some .missIsFirstHeaderByte := by decide
theorem test_wf_h1Miss_header : illFormed? (.h1Miss 0x55#8) = some .missIsFirstHeaderByte := by decide
theorem test_wf_h2Miss_header : illFormed? (.h2Miss 0xAA#8) = some .missIsSecondHeaderByte := by decide
theorem test_wf_encode_tooLong : illFormed? (.encodeFrame (List.replicate 65536 0xAB#8)) = some .payloadTooLong := by
  rw [illFormed?, List.length_replicate]; rfl
theorem test_wf_h2Miss_header0_is_fine : WellFormed (.h2Miss 0x55#8) := by decide

/-! ### Decoding: words written out from 30_encoding.md R70 and R71, one for each operation with an encoding -/

/-- No register is set. -/
def ctx0 : DecodeContext := ⟨0#8, 0#16, 0#16, 0x00#8⟩

theorem test_decode_idleHit : reads ctx0 (.dec 0b00001010101#11) .idleHit = true := by decide
theorem test_decode_idleMiss : reads ctx0 (.dec 0b00010101010#11) (.idleMiss 0xAA#8) = true := by decide
theorem test_decode_h1Hit : reads ctx0 (.dec 0b00101010101#11) .h1Hit = true := by decide
theorem test_decode_h1Miss : reads ctx0 (.dec 0b00101010100#11) (.h1Miss 0x54#8) = true := by decide
theorem test_decode_h2Hit : reads ctx0 (.dec 0b01010101010#11) .h2Hit = true := by decide
theorem test_decode_h2Miss : reads ctx0 (.dec 0b01001010101#11) (.h2Miss 0x55#8) = true := by decide
theorem test_decode_lenh : reads ctx0 (.dec 0b01111111111#11) (.lenh 0xFF#8) = true := by decide
theorem test_decode_lenlNz : reads ⟨1#8, 0#16, 0#16, 0x79#8⟩ (.dec 0b10000000000#11) (.lenlNz 0x00#8) = true := by decide
theorem test_decode_lenlZ : reads ⟨0#8, 0#16, 0#16, 0x7E#8⟩ (.dec 0b10000000000#11) .lenlZ = true := by decide
theorem test_decode_payMore : reads ⟨0#8, 3#16, 1#16, 0x4C#8⟩ (.dec 0b10100000010#11) (.payMore 0x02#8) = true := by decide
theorem test_decode_payLast : reads ⟨0#8, 3#16, 2#16, 0xED#8⟩ (.dec 0b10100000011#11) (.payLast 0x03#8) = true := by decide
theorem test_decode_payLast_max :
    reads ⟨0xFF#8, 0xFFFF#16, 0xFFFE#16, 0x00#8⟩ (.dec 0b10100000000#11) (.payLast 0x00#8) = true := by decide
theorem test_decode_ckOk : reads ⟨0#8, 3#16, 3#16, 0x84#8⟩ (.dec 0b11010000100#11) (.ckOk 0x84#8) = true := by decide
theorem test_decode_ckBad : reads ⟨0#8, 3#16, 3#16, 0x84#8⟩ (.dec 0b11010000101#11) (.ckBad 0x85#8) = true := by decide
theorem test_decode_reset : reads ctx0 (.top 0b10#2) .reset && reads ctx0 (.top 0b11#2) .reset = true := by decide
theorem test_decode_decHold : reads ctx0 (.top 0b00#2) .decHold = true := by decide
theorem test_decode_crcClr :
    reads ctx0 (.eng 0b10#2 0x00#8) .crcClr && reads ctx0 (.eng 0b11#2 0x12#8) .crcClr = true := by decide
theorem test_decode_crcByte : reads ctx0 (.eng 0b01#2 0x55#8) (.crcByte 0x55#8) = true := by decide
theorem test_decode_crcHold : reads ctx0 (.eng 0b00#2 0x55#8) .crcHold = true := by decide
theorem test_table_word_h2Hit : decodeTableWord 16 0x2AA = some .h2Hit := by decide
theorem test_table_word_reserved : decodeTableWord 16 0x700 = none := by decide

/-! ### ENG: vectors V1 and V2 -/

theorem test_shift1_feedback : shift1 0x80#8 = 0x07#8 ∧ shift1 0xFF#8 = 0xF9#8 ∧ shift1 0x81#8 = 0x05#8 := by decide
theorem test_crcBit : nextIs (exec .crcBit (st .idle 0#8 0#16 [] 0xAA#8)) (st .idle 0#8 0#16 [] 0x53#8) = true := by decide
theorem test_crcByte : nextIs (exec (.crcByte 0x34#8) (st .idle 0#8 0#16 [] 0x12#8)) (st .idle 0#8 0#16 [] 0xF2#8) = true := by
  decide
theorem test_engNext : engNext ⟨false, true, 0xAA#8⟩ 0xAC#8 = 0x12#8 ∧ engNext ⟨true, true, 0x55#8⟩ 0x84#8 = 0x00#8 ∧
    engNext ⟨false, false, 0x55#8⟩ 0xAC#8 = 0xAC#8 := by decide
theorem test_crcClr : nextIs (exec .crcClr (st .idle 0#8 0#16 [] 0x84#8)) State.reset = true := by decide
theorem test_crcHold : nextIs (exec .crcHold (st .idle 0#8 0#16 [] 0xAC#8)) (st .idle 0#8 0#16 [] 0xAC#8) = true := by decide
theorem test_compute_digits :
    crcCompute [0x31#8, 0x32#8, 0x33#8, 0x34#8, 0x35#8, 0x36#8, 0x37#8, 0x38#8, 0x39#8] = 0xF4#8 := by
  decide +kernel
theorem test_crcCompute :
    nextIs (exec (.crcCompute [0x55#8, 0xAA#8, 0x00#8, 0x03#8, 0x01#8, 0x02#8, 0x03#8]) (st .idle 0#8 0#16 [] 0xFF#8))
      (st .idle 0#8 0#16 [] 0x84#8) = true := by decide

/-! ### ENC: vectors V3 -/

theorem test_encode_empty : frameOf [] = [0x55#8, 0xAA#8, 0x00#8, 0x00#8, 0x7D#8] := by decide
theorem test_encodeFrame :
    nextIs (exec (.encodeFrame [0x01#8, 0x02#8, 0x03#8]) State.reset)
      { State.reset with encFrame := some [0x55#8, 0xAA#8, 0x00#8, 0x03#8, 0x01#8, 0x02#8, 0x03#8, 0x84#8] } = true := by
  decide

/-! ### DEC: vectors V4 -/

theorem test_idleHit : onByte State.reset 0x55#8 (st .awaitSecondHeaderByte 0#8 0#16 [] 0xAC#8) = true := by decide
theorem test_idleMiss : onByte State.reset 0xAA#8 (st .awaitFirstHeaderByte 0#8 0#16 [] 0x00#8) = true := by decide
theorem test_h1Hit :
    onByte (st .awaitFirstHeaderByte 0#8 0#16 [] 0x00#8) 0x55#8 (st .awaitSecondHeaderByte 0#8 0#16 [] 0xAC#8) = true := by
  decide
theorem test_h1Miss :
    onByte (st .awaitFirstHeaderByte 0#8 0#16 [] 0x00#8) 0x54#8 (st .awaitFirstHeaderByte 0#8 0#16 [] 0x00#8) = true := by
  decide
theorem test_h2Hit :
    onByte (st .awaitSecondHeaderByte 0#8 0#16 [] 0xAC#8) 0xAA#8 (st .awaitLengthHigh 0#8 0#16 [] 0x12#8) = true := by decide
theorem test_h2Miss_header0 : onByte (st .awaitSecondHeaderByte 0#8 0#16 [] 0xAC#8) 0x55#8 State.reset = true := by decide
theorem test_lenh :
    onByte (st .awaitLengthHigh 0#8 0#16 [] 0x12#8) 0xFF#8 (st .awaitLengthLow 0xFF#8 0#16 [] 0x8D#8) = true := by decide
theorem test_lenlNz_256 :
    onByte (st .awaitLengthLow 0x01#8 0#16 [] 0x79#8) 0x00#8 (st .accumulatingPayload 0x01#8 0x0100#16 [] 0x68#8) = true := by
  decide
theorem test_lenlNz_max :
    onByte (st .awaitLengthLow 0xFF#8 0#16 [] 0x8D#8) 0xFF#8 (st .accumulatingPayload 0xFF#8 0xFFFF#16 [] 0x59#8) = true := by
  decide
theorem test_lenlZ :
    onByte (st .awaitLengthLow 0x00#8 0#16 [] 0x7E#8) 0x00#8 (st .awaitChecksum 0x00#8 0#16 [] 0x7D#8) = true := by decide
theorem test_payMore :
    onByte (st .accumulatingPayload 0#8 6#16 [] 0x6F#8) 0x55#8 (st .accumulatingPayload 0#8 6#16 [0x55#8] 0xA6#8) = true := by
  decide
theorem test_payLast :
    onByte (st .accumulatingPayload 0#8 3#16 [0x01#8, 0x02#8] 0xED#8) 0x03#8
      (st .awaitChecksum 0#8 3#16 [0x01#8, 0x02#8, 0x03#8] 0x84#8) = true := by decide
theorem test_payLast_first :
    onByte (st .accumulatingPayload 0#8 1#16 [] 0x7A#8) 0x42#8 (st .awaitChecksum 0#8 1#16 [0x42#8] 0xA8#8) = true := by
  decide
theorem test_ckOk :
    onByte (st .awaitChecksum 0#8 3#16 [0x01#8, 0x02#8, 0x03#8] 0x84#8) 0x84#8
      { State.reset with out := some [0x01#8, 0x02#8, 0x03#8] } = true := by decide
theorem test_ckOk_empty : onByte (st .awaitChecksum 0#8 0#16 [] 0x7D#8) 0x7D#8 { State.reset with out := some [] } = true := by
  decide
theorem test_ckBad :
    onByte (st .awaitChecksum 0#8 3#16 [0x01#8, 0x02#8, 0x03#8] 0x84#8) 0x85#8 State.reset = true := by decide
theorem test_ckBad_header0 : onByte (st .awaitChecksum 0#8 0#16 [] 0x7D#8) 0x55#8 State.reset = true := by decide
theorem test_decHold :
    nextIs (step (st .accumulatingPayload 0#8 3#16 [0x01#8] 0x4C#8)) (st .accumulatingPayload 0#8 3#16 [0x01#8] 0x4C#8) =
      true := by decide
theorem test_reset_wins :
    nextIs (step ((st .awaitChecksum 0#8 3#16 [0x01#8, 0x02#8, 0x03#8] 0x84#8).present (.top true true 0x84#8)))
      State.reset = true := by decide

/-- 41_frame_decoder.md R118: a register that is not the running CRC. -/
theorem test_outside_reachable : refusedIs (consume 0x55#8 (st .idle 0#8 0#16 [] 0x01#8)) .outsideReachable = true := by
  decide

/-- 30_encoding.md R70: LENH in Idle is not its row. -/
theorem test_not_selected : refusedIs (exec (.lenh 0x00#8) State.reset) .notSelected = true := by decide

/-- 30_encoding.md R73b. -/
theorem test_no_row :
    refusedIs (consume 0x00#8 (st .accumulatingPayload 0#8 1#16 [0x42#8] 0xA8#8)) (.undecodable .noRow) = true := by decide

/-- The host's placing of a word: PAY.MORE runs as the first operation. -/
theorem test_place_payMore :
    nextIs (step (State.reset.withFetchWord 16 0x542)) (st .accumulatingPayload 0#8 2#16 [0x42#8] (upd 0x73#8 0x42#8)) =
      true := by decide

/-! ### Witnesses: a state and operands that meet the hypotheses of each statement -/

/-- A decoder in each control state, from 95_test_vectors.md. -/
def sH1 : State := st .awaitFirstHeaderByte 0#8 0#16 [] 0x00#8
def sH2 : State := st .awaitSecondHeaderByte 0#8 0#16 [] 0xAC#8
def sLH : State := st .awaitLengthHigh 0#8 0#16 [] 0x12#8
def sLL : State := st .awaitLengthLow 0#8 0#16 [] 0x7E#8
def sLL1 : State := st .awaitLengthLow 0x01#8 0#16 [] 0x79#8
def sPay : State := st .accumulatingPayload 0#8 3#16 [] 0x74#8
def sPayLast : State := st .accumulatingPayload 0#8 3#16 [0x01#8, 0x02#8] 0xED#8
def sCk : State := st .awaitChecksum 0#8 3#16 [0x01#8, 0x02#8, 0x03#8] 0x84#8
def sCkEmpty : State := st .awaitChecksum 0#8 0#16 [] 0x7D#8

theorem witness_CrcLinearOverXor : ([0x01#8, 0x02#8] : List Byte).length = ([0xFF#8, 0x00#8] : List Byte).length := by decide
theorem witness_ShiftAndUpdateBijective :
    ([] : List Byte).foldl upd 0x12#8 = ([] : List Byte).foldl upd 0x12#8 ∧ ([0x01#8] : List Byte).length ≤ 65535 := by
  decide
theorem witness_UndetectedCorruption :
    ([0x01#8, 0x00#8, 0x15#8] : List Byte).length = ([0x01#8, 0x02#8, 0x03#8] : List Byte).length ∧ 0x01#8 ≠ 0x00#8 := by
  decide
theorem witness_CrcClrClearsRegister : nextIs (exec .reset sCk) State.reset = true := by decide
theorem witness_CrcHoldKeepsRegister :
    nextIs (exec (.idleMiss 0x00#8) State.reset) sH1 = true ∧ nextIs (exec (.h1Miss 0xFF#8) sH1) sH1 = true ∧
      nextIs (exec .decHold sCk) sCk = true := by decide
theorem witness_EncodeGivesFrame : (List.replicate 65535 0x00#8).length ≤ 65535 :=
  List.length_replicate.le
theorem witness_EncodeOversizeFollowsPolicy : 65535 < (List.replicate 65536 0xAB#8).length := by
  rw [List.length_replicate]; decide
theorem witness_ValidFramesAreEncodings : validFrame [0x55#8, 0xAA#8, 0x00#8, 0x00#8, 0x7D#8] = true := by decide
theorem witness_LengthFieldBigEndian : (65535 : Nat) ≤ 65535 := by decide
theorem witness_ResetLeavesResetValues :
    nextIs (exec (.ckOk 0x84#8) sCk) { State.reset with out := some [0x01#8, 0x02#8, 0x03#8] } = true ∧
      nextIs (exec (.ckBad 0x85#8) sCk) State.reset = true ∧ nextIs (exec (.h2Miss 0x55#8) sH2) State.reset = true := by
  decide
theorem witness_ResetWinsOverByte : (sCk.present (.top true true 0x84#8)).pending = .top true true 0x84#8 :: [] := by decide
theorem witness_HoldChangesNothing :
    (sPay.present (.top false false 0x55#8)).pending = .top false false 0x55#8 :: [] ∧ sPay.pending = [] := by decide
theorem witness_FirstHeaderByteAccepted :
    State.reset.Legal ∧ State.reset.state = .idle ∧ sH1.Legal ∧ sH1.state = .awaitFirstHeaderByte := by decide
theorem witness_HeaderSearchMiss :
    State.reset.Legal ∧ State.reset.state = .idle ∧ sH1.Legal ∧ sH1.state = .awaitFirstHeaderByte ∧ 0xAA#8 ≠ 0x55#8 ∧
      0x55#8 ∉ ([0xAA#8, 0x54#8, 0x56#8] : List Byte) := by decide
theorem witness_SecondHeaderByteAccepted : sH2.Legal ∧ sH2.state = .awaitSecondHeaderByte := by decide
theorem witness_HeaderMismatchResets : sH2.Legal ∧ sH2.state = .awaitSecondHeaderByte ∧ 0x55#8 ≠ 0xAA#8 := by decide
theorem witness_LengthHighByteStored : sLH.Legal ∧ sLH.state = .awaitLengthHigh := by decide
theorem witness_NonZeroLengthAccepted_low : sLL.Legal ∧ sLL.state = .awaitLengthLow ∧ 0x01#8 ≠ 0#8 := by decide
theorem witness_NonZeroLengthAccepted_high : sLL1.Legal ∧ sLL1.state = .awaitLengthLow ∧ sLL1.lengthHighByte ≠ 0#8 := by
  decide
theorem witness_ZeroLengthAccepted : sLL.Legal ∧ sLL.state = .awaitLengthLow ∧ sLL.lengthHighByte = 0#8 := by decide
theorem witness_PayloadByteAppended_more :
    sPay.Legal ∧ sPay.state = .accumulatingPayload ∧ sPay.payloadCount.toNat + 1 < sPay.expectedLength.toNat := by decide
theorem witness_PayloadByteAppended_last :
    sPayLast.Legal ∧ sPayLast.state = .accumulatingPayload ∧
      sPayLast.payloadCount.toNat + 1 = sPayLast.expectedLength.toNat := by decide
theorem witness_PayloadStoreFrame :
    nextIs (exec (.payMore 0x01#8) sPay) (st .accumulatingPayload 0#8 3#16 [0x01#8] 0x4C#8) = true ∧
      nextIs (exec (.payLast 0x03#8) sPayLast) sCk = true := by decide
theorem witness_OtherOperationsKeepBuffer :
    nextIs (exec (.crcByte 0x00#8) sCk) (st .awaitChecksum 0#8 3#16 [0x01#8, 0x02#8, 0x03#8] (upd 0x84#8 0x00#8)) = true ∧
      Instr.crcByte 0x00#8 ≠ .reset := by decide
theorem witness_ChecksumMatchEmits : sCk.Legal ∧ sCk.state = .awaitChecksum ∧ sCk.checkValue = 0x84#8 := by decide
theorem witness_ChecksumMismatchResets : sCkEmpty.Legal ∧ sCkEmpty.state = .awaitChecksum ∧ 0x55#8 ≠ sCkEmpty.checkValue := by
  decide
theorem witness_OneChecksumByteValidates : sCkEmpty.Legal ∧ sCkEmpty.state = .awaitChecksum := by decide
theorem witness_IdleAndFirstHeaderAlike : State.reset.Legal ∧ State.reset.state = .idle := by decide
theorem witness_EmissionOnlyFromChecksumOk :
    nextIs (exec (.ckOk 0x7D#8) sCkEmpty) { State.reset with out := some [] } = true := by decide
theorem witness_LabelsOfByteSteps :
    (sCk.present (.top false true 0x84#8)).Legal ∧
      (sCk.present (.top false true 0x84#8)).pending = .top false true 0x84#8 :: [] := by decide
theorem witness_EveryStepCompletes : sPayLast.Legal ∧ (sPayLast.present (.top true true 0x01#8)).Legal := by decide
theorem witness_ExactlyOneRowApplies : sPay.Legal ∧ sCk.Legal := by decide
theorem witness_MeaningsFollowTheMap :
    sLH.Legal ∧ encode (.lenh 0xFF#8) = some (.dec 0x3FF#11) ∧ keyState 0x3FF#11 = stateCode sLH.state := by decide
theorem witness_OutsideReachableRefused :
    ¬ (st .idle 0#8 0#16 [] 0x01#8).Legal ∧ encode .idleHit = some (.dec 0x055#11) := by decide
theorem witness_DecodeOfEncode :
    WellFormed (.payLast 0x03#8) ∧ encode (.payLast 0x03#8) = some (.dec 0x503#11) ∧
      selectedIn sPayLast.decodeContext (.payLast 0x03#8) = true := by decide
theorem witness_EncodeOfDecode :
    reads sCk.decodeContext (.dec 0x685#11) (.ckBad 0x85#8) = true ∧ reads ctx0 (.top 0b11#2) .reset = true := by decide
theorem witness_ReservedEncodingsSelectNothing :
    keyState 0x7FF#11 = 7#3 ∧ (1#16).toNat ≤ (1#16).toNat ∧ (0#16).toNat ≤ (0xFFFF#16).toNat := by decide
theorem witness_StepRunsDecodedOperation :
    reads sPay.decodeContext (sPay.present (.top false true 0x01#8)).fetch (.payMore 0x01#8) = true ∧
      (st .accumulatingPayload 0#8 1#16 [0x42#8] 0xA8#8).decodeContext.expectedLength.toNat ≤ 1 := by decide
theorem witness_StepKeepsSound :
    (sPayLast.present (.top false true 0x03#8)).Legal ∧ nextIs (step (sPayLast.present (.top false true 0x03#8))) sCk = true := by
  decide
theorem witness_StepKeepsBufferCanonical :
    sPayLast.payloadBuffer.wf = true ∧ nextIs (step (sPayLast.present (.top false true 0x03#8))) sCk = true := by decide
theorem witness_ConsumeRefinesReference : sCk.Legal ∧ sLL1.Legal := by decide
theorem witness_RoundTrip :
    (List.replicate 65535 0xAB#8).length ≤ 65535 ∧ sH1.Legal ∧ sH1.headerSearch = true ∧ 0 < (frameOf []).length := by
  refine ⟨List.length_replicate.le, ?_⟩
  decide
theorem witness_CorruptedChecksumThenRecovery :
    ([] : List Byte).length ≤ 65535 ∧ ([0x42#8] : List Byte).length ≤ 65535 ∧ 0x01#8 ≠ 0x00#8 ∧ State.reset.Legal ∧
      State.reset.headerSearch = true := by decide
theorem witness_StrayHeaderByteLosesFrame : sH1.Legal ∧ sH1.headerSearch = true ∧ State.reset.headerSearch = true := by decide
theorem witness_FrameConsumedByCount :
    sLH.Legal ∧ sLH.state = .awaitLengthHigh ∧
      ([0x55#8, 0xAA#8] : List Byte).length = 256 * (0x00#8).toNat + (0x02#8).toNat := by decide
theorem witness_HoldStepsAreInvisible : sPay.Legal := by decide
theorem witness_StepsAreConsumeResetHold :
    (sPay.present (.top true true 0x01#8)).pending = .top true true 0x01#8 :: [] ∧ sPay.pending = [] ∧
      reads sPay.decodeContext (sPay.present (.top false true 0x01#8)).fetch (.payMore 0x01#8) = true := by decide
theorem witness_EngCommandsHappenInsideOperations :
    encode (.payLast 0x03#8) = some (.dec 0x503#11) ∧ nextIs (exec (.payLast 0x03#8) sPayLast) sCk = true := by decide
theorem witness_EngAloneComputes :
    ([engByte 0x01#8, engHold, engByte 0x02#8] : List EngPorts).all (fun p => !p.crcClr) = true := by decide

end Sys2Proof.Tests
end

section
/-! The header search (00_scope.md R19): what each of its operations does in a legal state, what a byte does there
whichever of the two control states it finds, and from that 10_state.md R31. -/

namespace Sys2Proof.Machine

variable {s : State} {b : Byte}

/-! ### The operations of the header search where their row applies -/

theorem exec_idleHit (hl : s.Legal) (hs : s.state = .idle) : exec .idleHit s = .next (acceptFirstHeader s) :=
  perform_selected _ hl (by simp [hs])

theorem exec_idleMiss (hl : s.Legal) (hs : s.state = .idle) (hb : b ≠ Config.hdr0) :
    exec (.idleMiss b) s = .next (s.begin.goto .awaitFirstHeaderByte) :=
  perform_selected _ hl (by simp [hs, hb])

theorem exec_h1Hit (hl : s.Legal) (hs : s.state = .awaitFirstHeaderByte) :
    exec .h1Hit s = .next (acceptFirstHeader s) :=
  perform_selected _ hl (by simp [hs])

theorem exec_h1Miss (hl : s.Legal) (hs : s.state = .awaitFirstHeaderByte) (hb : b ≠ Config.hdr0) :
    exec (.h1Miss b) s = .next s.begin :=
  perform_selected _ hl (by simp [hs, hb])

/-! ### A byte in the header search -/

theorem State.headerSearch_iff : s.headerSearch = true ↔ s.state = .idle ∨ s.state = .awaitFirstHeaderByte := by
  simp [State.headerSearch]

/-- Setting the tag that already stands changes nothing: why H1.MISS (R105) answers as IDLE.MISS (R103) does. -/
theorem State.goto_of_state_eq {tag : ControlState} (hs : s.state = tag) : s.goto tag = s := by
  subst hs; rfl

theorem consume_headerSearch_hit (hl : s.Legal) (hh : s.headerSearch = true) (hb : b = Config.hdr0) :
    consume b s = .next (acceptFirstHeader s) := by
  rcases State.headerSearch_iff.mp hh with hs | hs
  · rw [consume_idleHit hs hb, exec_idleHit hl hs]
  · rw [consume_h1Hit hs hb, exec_h1Hit hl hs]

theorem consume_headerSearch_miss (hl : s.Legal) (hh : s.headerSearch = true) (hb : b ≠ Config.hdr0) :
    consume b s = .next (s.begin.goto .awaitFirstHeaderByte) := by
  rcases State.headerSearch_iff.mp hh with hs | hs
  · rw [consume_idleMiss hs hb, exec_idleMiss hl hs hb]
  · rw [consume_h1Miss hs hb, exec_h1Miss hl hs hb, State.goto_of_state_eq (s.begin_state.trans hs)]

/-! ### The two control states beside each other -/

/-- Neither R116 nor R117 tells the two control states of the header search apart. -/
theorem State.Legal.goto_awaitFirstHeaderByte (hl : s.Legal) (hs : s.state = .idle) :
    (s.goto .awaitFirstHeaderByte).Legal := by
  have hregs : (s.goto .awaitFirstHeaderByte).regsLegal = s.regsLegal := by simp [State.regsLegal, hs]
  have hbytes : (s.goto .awaitFirstHeaderByte).frameBytes = s.frameBytes := by simp [State.frameBytes, hs]
  rw [State.legal_iff, hregs, hbytes]
  exact (s.legal_iff).mp hl

/-- Accepting the first header byte overwrites the tag it starts from. -/
theorem acceptFirstHeader_goto (tag : ControlState) : acceptFirstHeader (s.goto tag) = acceptFirstHeader s := rfl

theorem State.begin_goto_goto (tag tag' : ControlState) : (s.goto tag).begin.goto tag' = s.begin.goto tag' := rfl

/-- Settles O35 (10_state.md R31): both control states are header search, where a byte's outcome does not depend on
which of them it finds. -/
theorem idleAndFirstHeaderAlike : Obligations.IdleAndFirstHeaderAlike := by
  intro s b hl hs
  have hl' : (s.goto .awaitFirstHeaderByte).Legal := hl.goto_awaitFirstHeaderByte hs
  have hh : s.headerSearch = true := State.headerSearch_iff.mpr (.inl hs)
  have hh' : (s.goto .awaitFirstHeaderByte).headerSearch = true := State.headerSearch_iff.mpr (.inr rfl)
  refine ⟨hl', ?_⟩
  change consume b s = consume b (s.goto .awaitFirstHeaderByte) ∧ _
  by_cases hb : b = Config.hdr0
  · have hit := consume_headerSearch_hit hl hh hb
    have hit' := consume_headerSearch_hit hl' hh' hb
    exact ⟨by rw [hit, hit', acceptFirstHeader_goto], _, hit, rfl, (if_pos hb).symm⟩
  · have miss := consume_headerSearch_miss hl hh hb
    have miss' := consume_headerSearch_miss hl' hh' hb
    exact ⟨by rw [miss, miss', State.begin_goto_goto], _, miss, rfl, (if_neg hb).symm⟩

end Sys2Proof.Machine
end

section
/-! The length field (20_memory.md R45, 30_encoding.md R66): assembling is concatenation of the two bytes, high byte
first, and splitting takes its two parts back. -/

namespace Sys2Proof.Machine

variable (high low : Byte)

/-! ### Assembling and splitting -/

/-- The shifted halves never overlap, so `|` puts them side by side. -/
theorem assembleLength_eq_append : assembleLength high low = high ++ low := by
  rw [← BitVec.setWidth_eq (high ++ low), BitVec.setWidth_append_eq_shiftLeft_setWidth_or]
  rfl

@[simp] theorem lengthHigh_assembleLength : lengthHigh (assembleLength high low) = high := by
  rw [lengthHigh, assembleLength_eq_append, BitVec.extractLsb'_append_eq_left]

@[simp] theorem lengthLow_assembleLength : lengthLow (assembleLength high low) = low := by
  rw [lengthLow, assembleLength_eq_append, BitVec.extractLsb'_append_eq_right]

@[simp] theorem assembleLength_halves (len : Half) : assembleLength (lengthHigh len) (lengthLow len) = len := by
  rw [assembleLength_eq_append, lengthHigh, lengthLow,
    BitVec.extractLsb'_append_extractLsb'_eq_extractLsb' (Nat.zero_add 8).symm]
  exact BitVec.extractLsb'_eq_self

/-! ### The same as numbers -/

theorem assembleLength_toNat_or : (assembleLength high low).toNat = high.toNat <<< 8 ||| low.toNat := by
  rw [assembleLength_eq_append, BitVec.toNat_append]

/-- The low byte is below the shifted high byte, where `|` is `+`. -/
theorem assembleLength_toNat : (assembleLength high low).toNat = 256 * high.toNat + low.toNat := by
  rw [assembleLength_toNat_or, ← Nat.shiftLeft_add_eq_or_of_lt low.isLt, Nat.shiftLeft_eq, Nat.mul_comm]

/-- The bits of a number's length field are the number's own bits, also where the field truncates it. -/
theorem lengthHigh_lengthField_toNat (n : Nat) : (lengthHigh (lengthField n)).toNat = n >>> 8 &&& 0xFF := by
  have hmask : n >>> 8 &&& 0xFF = n >>> 8 % 2 ^ 8 := Nat.and_two_pow_sub_one_eq_mod _ 8
  rw [hmask, lengthHigh, lengthField, BitVec.extractLsb'_toNat, BitVec.toNat_ofNat, Nat.shiftRight_eq_div_pow,
    Nat.shiftRight_eq_div_pow]
  omega

theorem lengthLow_lengthField_toNat (n : Nat) : (lengthLow (lengthField n)).toNat = n &&& 0xFF := by
  have hmask : n &&& 0xFF = n % 2 ^ 8 := Nat.and_two_pow_sub_one_eq_mod _ 8
  rw [hmask, lengthLow, lengthField, BitVec.extractLsb'_toNat, BitVec.toNat_ofNat, Nat.shiftRight_zero]
  omega

/-- Up to 65535 the length field holds the number itself. -/
theorem lengthField_toNat {n : Nat} (hn : n ≤ 65535) : (lengthField n).toNat = n := by
  rw [lengthField, BitVec.toNat_ofNat]
  omega

/-- The sender's halves put together are the number: they are the halves of its length field. -/
theorem sender_halves_or {n : Nat} (hn : n ≤ 65535) : (n >>> 8 &&& 0xFF) <<< 8 ||| (n &&& 0xFF) = n := by
  rw [← lengthHigh_lengthField_toNat, ← lengthLow_lengthField_toNat, ← assembleLength_toNat_or, assembleLength_halves,
    lengthField_toNat hn]

/-- Settles O18 (20_memory.md R45, 30_encoding.md R66): assembling is concatenation, so splitting inverts it both ways, and
the sender's halves are the halves of the length field. -/
theorem lengthFieldBigEndian : Obligations.LengthFieldBigEndian :=
  ⟨fun high low => ⟨assembleLength_toNat_or high low, assembleLength_toNat high low, lengthHigh_assembleLength high low,
      lengthLow_assembleLength high low⟩,
    assembleLength_halves,
    fun n => ⟨lengthHigh_lengthField_toNat n, lengthLow_lengthField_toNat n⟩,
    fun _ => sender_halves_or⟩

end Sys2Proof.Machine
end

section
/-! The arithmetic of ENG (40_crc_engine.md section 3). One shift is linear over XOR and can be undone bit by bit; eight
shifts, the update and the fold over a byte sequence inherit both. -/

namespace Sys2Proof.Machine

variable (a a' b b' : Byte)

/-! ### One shift -/

/-- What a shift XORs in (R81): POLY where bit 7 was set. -/
def feedback : Byte := if a.getLsbD 7 then Config.poly else 0#8

theorem shift1_eq_xor_feedback : shift1 a = (a <<< 1) ^^^ feedback a := by
  unfold shift1 feedback
  split
  · rfl
  · rw [BitVec.xor_zero]

theorem feedback_xor : feedback (a ^^^ a') = feedback a ^^^ feedback a' := by
  unfold feedback
  rw [BitVec.getLsbD_xor]
  cases a.getLsbD 7 <;> cases a'.getLsbD 7 <;> rfl

/-- Both terms of a shift are linear (R89). -/
theorem shift1_xor : shift1 (a ^^^ a') = shift1 a ^^^ shift1 a' := by
  simp only [shift1_eq_xor_feedback, BitVec.shiftLeft_xor_distrib, feedback_xor]
  ac_rfl

@[simp] theorem shift1_zero : shift1 0#8 = 0#8 := rfl

/-- POLY feeds back into bits 0, 1 and 2. -/
theorem getLsbD_feedback {k : Nat} (hk : k < 8) : (feedback a).getLsbD k = (decide (k < 3) && a.getLsbD 7) := by
  have hpoly : ∀ i < 8, Config.poly.getLsbD i = decide (i < 3) := by decide
  unfold feedback
  cases a.getLsbD 7
  · simp
  · simp [hpoly k hk]

theorem getLsbD_shift1_zero : (shift1 a).getLsbD 0 = a.getLsbD 7 := by
  rw [shift1_eq_xor_feedback, BitVec.getLsbD_xor, getLsbD_feedback a (by decide)]
  simp

theorem getLsbD_shift1_succ {k : Nat} (hk : k < 7) :
    (shift1 a).getLsbD (k + 1) = (a.getLsbD k ^^ (decide (k + 1 < 3) && a.getLsbD 7)) := by
  have hk8 : k + 1 < 8 := Nat.succ_lt_succ hk
  have hmoved : (a <<< 1).getLsbD (k + 1) = a.getLsbD k := by
    simp only [BitVec.getLsbD_shiftLeft, Nat.add_sub_cancel, hk8, Nat.not_lt.mpr (Nat.le_add_left 1 k), decide_true,
      decide_false, Bool.not_false, Bool.true_and]
  rw [shift1_eq_xor_feedback, BitVec.getLsbD_xor, getLsbD_feedback a hk8, hmoved]

/-- Bit 0 of the result is the old bit 7; with it the feedback can be taken off the other bits (R90). -/
theorem shift1_injective : Function.Injective shift1 := by
  intro a a' h
  have hbit : ∀ k, (shift1 a).getLsbD k = (shift1 a').getLsbD k := fun k => by rw [h]
  have h7 : a.getLsbD 7 = a'.getLsbD 7 := by simpa only [getLsbD_shift1_zero] using hbit 0
  refine BitVec.eq_of_getLsbD_eq fun k hk => ?_
  rcases Nat.lt_succ_iff_lt_or_eq.mp hk with hlt | rfl
  · have hk1 := hbit (k + 1)
    rwa [getLsbD_shift1_succ a hlt, getLsbD_shift1_succ a' hlt, h7, Bool.xor_left_inj] at hk1
  · exact h7

theorem feedback_toNat : (feedback a).toNat = if a.getLsbD 7 then 0x07 else 0 := by
  unfold feedback
  split <;> rfl

/-- The shift in unbounded numbers: dropping the old bit 7 is the mask (R95). -/
theorem shift1_toNat : (shift1 a).toNat =
    if a.getLsbD 7 then ((a.toNat <<< 1) &&& 0xFF) ^^^ 0x07 else (a.toNat <<< 1) &&& 0xFF := by
  have hmask : (a <<< 1).toNat = (a.toNat <<< 1) &&& 0xFF := by
    rw [BitVec.toNat_shiftLeft]
    exact (Nat.and_two_pow_sub_one_eq_mod _ 8).symm
  rw [shift1_eq_xor_feedback, BitVec.toNat_xor, hmask, feedback_toNat]
  split
  · rfl
  · rw [Nat.xor_zero]

/-! ### `n` shifts -/

variable (n : Nat)

@[simp] theorem shifts_zero : shifts n 0#8 = 0#8 := by
  induction n with
  | zero => rfl
  | succ n ih => rw [shifts, shift1_zero, ih]

theorem shifts_xor : shifts n (a ^^^ a') = shifts n a ^^^ shifts n a' := by
  induction n generalizing a a' with
  | zero => rfl
  | succ n ih => simp only [shifts, shift1_xor, ih]

theorem shifts_injective : Function.Injective (shifts n) := by
  induction n with
  | zero => exact fun _ _ h => h
  | succ n ih => exact ih.comp shift1_injective

/-! ### The update by one byte -/

/-- The update sees register and byte only through their XOR (R91). -/
theorem upd_eq_upd_zero : upd a b = upd 0x00#8 (a ^^^ b) := by
  rw [upd, upd, BitVec.zero_xor]

theorem upd_xor : upd (a ^^^ a') (b ^^^ b') = upd a b ^^^ upd a' b' := by
  have hpair : (a ^^^ a') ^^^ (b ^^^ b') = (a ^^^ b) ^^^ (a' ^^^ b') := by ac_rfl
  rw [upd, hpair, shifts_xor, upd, upd]

@[simp] theorem upd_self : upd a a = 0x00#8 := by
  rw [upd, BitVec.xor_self, shifts_zero]

/-- Eight shifts send nothing but zero to zero. -/
theorem upd_eq_zero_iff : upd a b = 0x00#8 ↔ b = a := by
  rw [upd, ← shifts_zero 8, (shifts_injective 8).eq_iff, BitVec.xor_eq_zero_iff, eq_comm]

/-! ### The fold over a byte sequence -/

theorem crcCompute_append (xs ys : List Byte) : crcCompute (xs ++ ys) = ys.foldl upd (crcCompute xs) :=
  List.foldl_append

/-- Linearity of the fold, with a register value for each sequence: after the first byte the two need not agree. -/
theorem foldl_upd_zipWith_xor (xs ys : List Byte) (hlen : xs.length = ys.length) :
    (List.zipWith (· ^^^ ·) xs ys).foldl upd (a ^^^ a') = xs.foldl upd a ^^^ ys.foldl upd a' := by
  induction xs generalizing ys a a' with
  | nil =>
    obtain rfl := List.length_eq_zero_iff.mp hlen.symm
    rfl
  | cons x xs ih =>
    cases ys with
    | nil => contradiction
    | cons y ys =>
      simp only [List.zipWith_cons_cons, List.foldl_cons, upd_xor]
      exact ih _ _ ys (Nat.succ.inj hlen)

theorem crcCompute_replicate_zero : crcCompute (List.replicate n 0x00#8) = Config.crcInit := by
  induction n with
  | zero => rfl
  | succ n ih =>
    rw [List.replicate_succ', crcCompute_append, ih, List.foldl_cons, List.foldl_nil]
    exact upd_self 0x00#8

/-! ### The table -/

theorem crcTable_length : crcTable.length = 256 := by
  simp only [crcTable, List.length_append, List.length_cons, List.length_nil]

/-- The printed entries, by the evaluation of 256 cases that R91 names. -/
theorem crcTable_getElem? (x : Byte) : crcTable[x.toNat]? = some (upd 0x00#8 x) := by
  revert x
  decide

/-! ### The obligations -/

/-- Settles O3 (40_crc_engine.md R89): linearity of one shift, carried through the eight shifts and, with both registers
started at zero, through the fold. -/
theorem crcLinearOverXor : Obligations.CrcLinearOverXor :=
  ⟨shift1_xor, fun a a' b b' => upd_xor a a' b b', foldl_upd_zipWith_xor 0x00#8 0x00#8⟩

/-- Settles O6 (40_crc_engine.md R92): the last update meets the byte equal to the register. -/
theorem selfCheckLaw : Obligations.SelfCheckLaw :=
  ⟨fun bytes => (crcCompute_append bytes [crcCompute bytes]).trans (upd_self _), upd_eq_zero_iff⟩

/-- Settles O7 (40_crc_engine.md R93): after the zero bytes the register stands where it started. -/
theorem zeroPrefixLaw : Obligations.ZeroPrefixLaw := by
  intro k bytes
  rw [crcCompute_append, crcCompute_replicate_zero]
  rfl

/-- Settles O1 (40_crc_engine.md R81): the number, the bits, and the corner cases by evaluation. -/
theorem shift1BitLevelForm : Obligations.Shift1BitLevelForm := by
  refine ⟨shift1_toNat, fun a => ⟨getLsbD_shift1_zero a, ?bit1, ?bit2, ?others⟩, by decide⟩
  case bit1 => exact getLsbD_shift1_succ a (k := 0) (by decide)
  case bit2 => exact getLsbD_shift1_succ a (k := 1) (by decide)
  case others =>
    intro k h3 h7
    obtain ⟨j, rfl⟩ := Nat.exists_eq_add_of_le' h3
    have hnofeed : ¬ j + 2 + 1 < 3 := by omega
    simp [getLsbD_shift1_succ a (k := j + 2) (by omega), hnofeed]

/-- Settles O2 (40_crc_engine.md R91). -/
theorem updateIsTableLookup : Obligations.UpdateIsTableLookup :=
  ⟨crcTable_length, crcTable_getElem?, fun a b => by rw [crcTable_getElem?, ← upd_eq_upd_zero]⟩

/-- Settles O5 (40_crc_engine.md R88). -/
theorem incrementalLaw : Obligations.IncrementalLaw :=
  crcCompute_append

end Sys2Proof.Machine
end

section
/-! The frame decoder, operation by operation (41_frame_decoder.md R106 to R114): the next state of each in-frame operation
where its row applies, and what a byte does in each in-frame control state. The header search stands above. -/

namespace Sys2Proof.Machine

variable {s : State} {b : Byte}

/-! ### The next states of the bytes that a frame is made of -/

/-- The second header byte accepted (R106). -/
def acceptSecondHeader (s : State) : State := (s.begin.absorb Config.hdr1).goto .awaitLengthHigh

/-- The length's high byte taken (R108). -/
def acceptLengthHigh (b : Byte) (s : State) : State := ((s.begin.setLengthHigh b).absorb b).goto .awaitLengthLow

/-- The length's low byte taken: R109 and R110 in one, told apart by the length they form. -/
def acceptLengthLow (b : Byte) (s : State) : State :=
  ((s.begin.setLength (assembleLength s.lengthHighByte b)).absorb b).goto
    (if assembleLength s.lengthHighByte b = 0#16 then .awaitChecksum else .accumulatingPayload)

/-- A payload byte taken: R111 and R112 in one, told apart by the count after the append. -/
def acceptPayloadByte (b : Byte) (s : State) : State :=
  ({ s.begin with
      payloadBuffer := s.payloadBuffer ++ [(s.payloadCount.toNat, b)]
      payloadCount := s.payloadCount + 1#16 }.absorb b).goto
    (if s.payloadCount.toNat + 1 = s.expectedLength.toNat then .awaitChecksum else .accumulatingPayload)

/-! ### The in-frame operations where their row applies -/

theorem exec_h2Hit (hl : s.Legal) (hs : s.state = .awaitSecondHeaderByte) :
    exec .h2Hit s = .next (acceptSecondHeader s) :=
  perform_selected _ hl (by simp [hs])

theorem exec_h2Miss (hl : s.Legal) (hs : s.state = .awaitSecondHeaderByte) (hb : b ≠ Config.hdr1) :
    exec (.h2Miss b) s = .next { State.reset with pending := s.pending } :=
  perform_selected _ hl (by simp [hs, hb])

theorem exec_lenh (hl : s.Legal) (hs : s.state = .awaitLengthHigh) :
    exec (.lenh b) s = .next (acceptLengthHigh b s) :=
  perform_selected _ hl (by simp [hs])

/-- The assembled length is zero only where both of its bytes are. -/
theorem assembleLength_eq_zero_iff (high low : Byte) : assembleLength high low = 0#16 ↔ high = 0#8 ∧ low = 0#8 := by
  simp only [← BitVec.toNat_inj, assembleLength_toNat, BitVec.toNat_ofNat]
  omega

/-- The condition of LENL.NZ is one on the assembled length. -/
theorem lengthNonZero_iff (high low : Byte) : lengthNonZero high low = true ↔ assembleLength high low ≠ 0#16 := by
  rw [Ne, assembleLength_eq_zero_iff, not_and_or]
  simp [lengthNonZero]

theorem exec_lenlNz (hl : s.Legal) (hs : s.state = .awaitLengthLow) (hn : lengthNonZero s.lengthHighByte b = true) :
    exec (.lenlNz b) s = .next (acceptLengthLow b s) := by
  rw [acceptLengthLow, if_neg ((lengthNonZero_iff _ _).mp hn)]
  exact perform_selected _ hl (by simp [hs, hn])

theorem exec_lenlZ (hl : s.Legal) (hs : s.state = .awaitLengthLow) (hz : s.lengthHighByte = 0#8) :
    exec .lenlZ s = .next (acceptLengthLow 0x00#8 s) := by
  have hlen : assembleLength s.lengthHighByte 0x00#8 = 0#16 := (assembleLength_eq_zero_iff _ _).mpr ⟨hz, rfl⟩
  rw [acceptLengthLow, if_pos hlen, hlen]
  exact perform_selected _ hl (by simp [hs, lengthZero, hz])

theorem exec_payMore (hl : s.Legal) (hs : s.state = .accumulatingPayload)
    (hc : s.payloadCount.toNat + 1 < s.expectedLength.toNat) : exec (.payMore b) s = .next (acceptPayloadByte b s) := by
  have hperform : exec (.payMore b) s = orFault (s.begin.append b) fun t => .next (t.absorb b) :=
    perform_selected _ hl (by simp [hs, morePayload, hc])
  rw [hperform, hl.append hs, orFault_ok, acceptPayloadByte, if_neg hc.ne, State.goto_of_state_eq (by exact hs)]

theorem exec_payLast (hl : s.Legal) (hs : s.state = .accumulatingPayload)
    (hc : s.payloadCount.toNat + 1 = s.expectedLength.toNat) : exec (.payLast b) s = .next (acceptPayloadByte b s) := by
  have hperform : exec (.payLast b) s = orFault (s.begin.append b) fun t => .next ((t.absorb b).goto .awaitChecksum) :=
    perform_selected _ hl (by simp [hs, lastPayload, hc])
  rw [hperform, hl.append hs, orFault_ok, acceptPayloadByte, if_pos hc]

theorem exec_ckOk (hl : s.Legal) (hs : s.state = .awaitChecksum) (hb : b = s.checkValue) :
    exec (.ckOk b) s = .next { State.reset with out := some s.payload, pending := s.pending } := by
  have hperform : exec (.ckOk b) s = orFault s.readPayload fun p => .next (s.begin.fullReset.emit p) :=
    perform_selected _ hl (by simp [hs, checksumMatches, hb, hl.crc_eq_checkValue hs])
  rw [hperform, hl.readPayload, orFault_ok]
  rfl

theorem exec_ckBad (hl : s.Legal) (hs : s.state = .awaitChecksum) (hb : b ≠ s.checkValue) :
    exec (.ckBad b) s = .next { State.reset with pending := s.pending } :=
  perform_selected _ hl (by simp [hs, checksumMatches, hb, hl.crc_eq_checkValue hs])

/-! ### A byte in each in-frame control state -/

theorem consume_awaitSecondHeaderByte_hit (hl : s.Legal) (hs : s.state = .awaitSecondHeaderByte) (hb : b = Config.hdr1) :
    consume b s = .next (acceptSecondHeader s) := by
  rw [consume_h2Hit hs hb, exec_h2Hit hl hs]

theorem consume_awaitSecondHeaderByte_miss (hl : s.Legal) (hs : s.state = .awaitSecondHeaderByte) (hb : b ≠ Config.hdr1) :
    consume b s = .next { State.reset with pending := s.pending } := by
  rw [consume_h2Miss hs hb, exec_h2Miss hl hs hb]

theorem consume_awaitLengthHigh (hl : s.Legal) (hs : s.state = .awaitLengthHigh) :
    consume b s = .next (acceptLengthHigh b s) := by
  rw [consume_lenh hs, exec_lenh hl hs]

theorem consume_awaitLengthLow (hl : s.Legal) (hs : s.state = .awaitLengthLow) :
    consume b s = .next (acceptLengthLow b s) := by
  by_cases hn : lengthNonZero s.lengthHighByte b = true
  · rw [consume_lenlNz hs hn, exec_lenlNz hl hs hn]
  · obtain ⟨hz, rfl⟩ := (assembleLength_eq_zero_iff _ _).mp (not_not.mp fun h => hn ((lengthNonZero_iff _ _).mpr h))
    rw [consume_lenlZ hs (Bool.not_eq_true _ ▸ hn), exec_lenlZ hl hs hz]

theorem consume_accumulatingPayload (hl : s.Legal) (hs : s.state = .accumulatingPayload) :
    consume b s = .next (acceptPayloadByte b s) := by
  rcases Nat.lt_or_eq_of_le (Nat.succ_le_of_lt (hl.count_lt hs)) with hc | hc
  · rw [consume_payMore hs hc, exec_payMore hl hs hc]
  · rw [consume_payLast hs hc, exec_payLast hl hs hc]

theorem consume_awaitChecksum_match (hl : s.Legal) (hs : s.state = .awaitChecksum) (hb : b = s.checkValue) :
    consume b s = .next { State.reset with out := some s.payload, pending := s.pending } := by
  rw [consume_ckOk hs (hb.trans (hl.crc_eq_checkValue hs).symm), exec_ckOk hl hs hb]

theorem consume_awaitChecksum_mismatch (hl : s.Legal) (hs : s.state = .awaitChecksum) (hb : b ≠ s.checkValue) :
    consume b s = .next { State.reset with pending := s.pending } := by
  rw [consume_ckBad hs (hl.crc_eq_checkValue hs ▸ hb), exec_ckBad hl hs hb]

end Sys2Proof.Machine
end

section
/-! The reachable states (41_frame_decoder.md R116, R117): the registers of a legal state by control state, and that every
byte leads from a legal state to a legal state. -/

namespace Sys2Proof.Machine

variable {s t : State} {b : Byte}

/-! ### What legality asks, by control state -/

theorem State.regsLegal_beforeLength (hs : s.state = .idle ∨ s.state = .awaitFirstHeaderByte ∨
      s.state = .awaitSecondHeaderByte ∨ s.state = .awaitLengthHigh) :
    s.regsLegal = true ↔ s.lengthHighByte = 0#8 ∧ s.expectedLength = 0#16 ∧ s.payloadCount = 0#16 := by
  rcases hs with hs | hs | hs | hs <;> simp [State.regsLegal, hs, and_assoc]

theorem State.regsLegal_awaitLengthLow (hs : s.state = .awaitLengthLow) :
    s.regsLegal = true ↔ s.expectedLength = 0#16 ∧ s.payloadCount = 0#16 := by
  simp [State.regsLegal, hs]

theorem State.regsLegal_accumulatingPayload (hs : s.state = .accumulatingPayload) :
    s.regsLegal = true ↔
      s.payloadCount.toNat < s.expectedLength.toNat ∧ s.lengthHighByte = lengthHigh s.expectedLength := by
  simp [State.regsLegal, hs]

theorem State.regsLegal_awaitChecksum (hs : s.state = .awaitChecksum) :
    s.regsLegal = true ↔ s.payloadCount = s.expectedLength ∧ s.lengthHighByte = lengthHigh s.expectedLength := by
  simp [State.regsLegal, hs]

theorem State.frameBytes_headerSearch (hh : s.headerSearch = true) : s.frameBytes = [] := by
  rcases State.headerSearch_iff.mp hh with hs | hs <;> simp [State.frameBytes, hs]

theorem State.frameBytes_awaitSecondHeaderByte (hs : s.state = .awaitSecondHeaderByte) :
    s.frameBytes = [Config.hdr0] := by
  simp [State.frameBytes, hs]

theorem State.frameBytes_awaitLengthHigh (hs : s.state = .awaitLengthHigh) :
    s.frameBytes = [Config.hdr0, Config.hdr1] := by
  simp [State.frameBytes, hs]

theorem State.frameBytes_awaitLengthLow (hs : s.state = .awaitLengthLow) :
    s.frameBytes = [Config.hdr0, Config.hdr1, s.lengthHighByte] := by
  simp [State.frameBytes, hs]

theorem State.frameBytes_afterLength (hs : s.state = .accumulatingPayload ∨ s.state = .awaitChecksum) :
    s.frameBytes = frameHead s.expectedLength ++ s.payload := by
  rcases hs with hs | hs <;> simp [State.frameBytes, hs]

/-! ### The registers of a legal state (R117) -/

/-- The incremental law (40_crc_engine.md R88) for one more byte. -/
theorem crcCompute_concat (bytes : List Byte) (b : Byte) : crcCompute (bytes ++ [b]) = upd (crcCompute bytes) b :=
  crcCompute_append bytes [b]

theorem crcCompute_hdr0 : crcCompute [Config.hdr0] = 0xAC#8 := by decide

theorem crcCompute_header : crcCompute [Config.hdr0, Config.hdr1] = 0x12#8 := by
  have hstep : crcCompute [Config.hdr0, Config.hdr1] = upd (crcCompute [Config.hdr0]) Config.hdr1 :=
    crcCompute_concat [Config.hdr0] Config.hdr1
  rw [hstep, crcCompute_hdr0]
  decide

theorem State.Legal.crc_headerSearch (hl : s.Legal) (hh : s.headerSearch = true) : s.crc = 0x00#8 := by
  rw [hl.crc_eq, State.frameBytes_headerSearch hh]
  rfl

theorem State.Legal.crc_awaitSecondHeaderByte (hl : s.Legal) (hs : s.state = .awaitSecondHeaderByte) :
    s.crc = 0xAC#8 := by
  rw [hl.crc_eq, State.frameBytes_awaitSecondHeaderByte hs, crcCompute_hdr0]

theorem State.Legal.crc_awaitLengthHigh (hl : s.Legal) (hs : s.state = .awaitLengthHigh) : s.crc = 0x12#8 := by
  rw [hl.crc_eq, State.frameBytes_awaitLengthHigh hs, crcCompute_header]

theorem State.Legal.crc_awaitLengthLow (hl : s.Legal) (hs : s.state = .awaitLengthLow) :
    s.crc = upd 0x12#8 s.lengthHighByte := by
  rw [hl.crc_eq, State.frameBytes_awaitLengthLow hs, ← crcCompute_header]
  exact crcCompute_concat [Config.hdr0, Config.hdr1] s.lengthHighByte

theorem State.Legal.crc_afterLength (hl : s.Legal) (hs : s.state = .accumulatingPayload ∨ s.state = .awaitChecksum) :
    s.crc = crcCompute (frameHead s.expectedLength ++ s.payload) := by
  rw [hl.crc_eq, State.frameBytes_afterLength hs]

theorem State.Legal.payloadCount_awaitLengthLow (hl : s.Legal) (hs : s.state = .awaitLengthLow) :
    s.payloadCount = 0#16 :=
  ((State.regsLegal_awaitLengthLow hs).mp hl.regs).2

theorem State.Legal.payloadBuffer_awaitLengthLow (hl : s.Legal) (hs : s.state = .awaitLengthLow) :
    s.payloadBuffer = [] := by
  simpa [hl.payloadCount_awaitLengthLow hs] using hl.indices

/-- In AwaitChecksum the payload is as long as the length says. -/
theorem State.Legal.payload_length_awaitChecksum (hl : s.Legal) (hs : s.state = .awaitChecksum) :
    s.payload.length = s.expectedLength.toNat := by
  rw [hl.payload_length, ((State.regsLegal_awaitChecksum hs).mp hl.regs).1]

/-- What R116 and R117 list, from the legality of the registers. -/
theorem State.Legal.reachableRegisters (hl : s.Legal) : ReachableRegisters s := by
  have hregs := hl.regs
  unfold ReachableRegisters
  cases hs : s.state
  case idle =>
    obtain ⟨hhigh, hlen, hcount⟩ := (State.regsLegal_beforeLength (.inl hs)).mp hregs
    exact ⟨hhigh, hlen, hcount, hl.crc_headerSearch (State.headerSearch_iff.mpr (.inl hs))⟩
  case awaitFirstHeaderByte =>
    obtain ⟨hhigh, hlen, hcount⟩ := (State.regsLegal_beforeLength (.inr (.inl hs))).mp hregs
    exact ⟨hhigh, hlen, hcount, hl.crc_headerSearch (State.headerSearch_iff.mpr (.inr hs))⟩
  case awaitSecondHeaderByte =>
    obtain ⟨hhigh, hlen, hcount⟩ := (State.regsLegal_beforeLength (.inr (.inr (.inl hs)))).mp hregs
    exact ⟨hhigh, hlen, hcount, hl.crc_awaitSecondHeaderByte hs⟩
  case awaitLengthHigh =>
    obtain ⟨hhigh, hlen, hcount⟩ := (State.regsLegal_beforeLength (.inr (.inr (.inr hs)))).mp hregs
    exact ⟨hhigh, hlen, hcount, hl.crc_awaitLengthHigh hs⟩
  case awaitLengthLow =>
    obtain ⟨hlen, hcount⟩ := (State.regsLegal_awaitLengthLow hs).mp hregs
    exact ⟨hlen, hcount, hl.crc_awaitLengthLow hs⟩
  case accumulatingPayload =>
    obtain ⟨hcount, hhigh⟩ := (State.regsLegal_accumulatingPayload hs).mp hregs
    exact ⟨Nat.one_le_of_lt hcount, hcount, hhigh, hl.crc_afterLength (.inl hs), hl.payload_length⟩
  case awaitChecksum =>
    obtain ⟨hcount, hhigh⟩ := (State.regsLegal_awaitChecksum hs).mp hregs
    exact ⟨hcount, hhigh, hl.crc_afterLength (.inr hs), hl.payload_length⟩

/-! ### The bytes of a frame keep the registers legal -/

/-- A byte taken into the frame and into the register keeps R116, by the incremental law. -/
theorem State.Legal.of_accept (hl : s.Legal) (hregs : t.regsLegal = true)
    (hindices : t.payloadBuffer.map Prod.fst = List.range t.payloadCount.toNat) (hcrc : t.crc = upd s.crc b)
    (hbytes : t.frameBytes = s.frameBytes ++ [b]) : t.Legal :=
  t.legal_iff.mpr ⟨hregs, hindices, by rw [hcrc, hbytes, crcCompute_concat, ← hl.crc_eq]⟩

theorem acceptFirstHeader_legal (hl : s.Legal) (hh : s.headerSearch = true) : (acceptFirstHeader s).Legal := by
  refine hl.of_accept ((State.regsLegal_beforeLength (.inr (.inr (.inl rfl)))).mpr ?_) hl.indices rfl ?_
  · exact (State.regsLegal_beforeLength ((State.headerSearch_iff.mp hh).imp_right .inl)).mp hl.regs
  · rw [State.frameBytes_headerSearch hh]
    rfl

/-- A byte skipped in the header search. -/
theorem skip_legal (hl : s.Legal) (hh : s.headerSearch = true) : (s.begin.goto .awaitFirstHeaderByte).Legal := by
  have hbegin : s.begin.Legal := hl
  rcases State.headerSearch_iff.mp hh with hs | hs
  · exact hbegin.goto_awaitFirstHeaderByte hs
  · rwa [State.goto_of_state_eq (s.begin_state.trans hs)]

theorem acceptSecondHeader_legal (hl : s.Legal) (hs : s.state = .awaitSecondHeaderByte) :
    (acceptSecondHeader s).Legal := by
  refine hl.of_accept ((State.regsLegal_beforeLength (.inr (.inr (.inr rfl)))).mpr ?_) hl.indices rfl ?_
  · exact (State.regsLegal_beforeLength (.inr (.inr (.inl hs)))).mp hl.regs
  · rw [State.frameBytes_awaitSecondHeaderByte hs]
    rfl

theorem acceptLengthHigh_legal (hl : s.Legal) (hs : s.state = .awaitLengthHigh) : (acceptLengthHigh b s).Legal := by
  refine hl.of_accept ((State.regsLegal_awaitLengthLow rfl).mpr ?_) hl.indices rfl ?_
  · exact ((State.regsLegal_beforeLength (.inr (.inr (.inr hs)))).mp hl.regs).2
  · rw [State.frameBytes_awaitLengthHigh hs]
    rfl

theorem acceptLengthLow_state (b : Byte) (s : State) :
    (acceptLengthLow b s).state =
      if assembleLength s.lengthHighByte b = 0#16 then .awaitChecksum else .accumulatingPayload := rfl

@[simp] theorem acceptLengthLow_expectedLength (b : Byte) (s : State) :
    (acceptLengthLow b s).expectedLength = assembleLength s.lengthHighByte b := rfl

@[simp] theorem acceptLengthLow_payloadCount (b : Byte) (s : State) :
    (acceptLengthLow b s).payloadCount = s.payloadCount := rfl

/-- No payload byte has been taken when the length is complete. -/
theorem acceptLengthLow_payload (hl : s.Legal) (hs : s.state = .awaitLengthLow) (b : Byte) :
    (acceptLengthLow b s).payload = [] := by
  change s.payload = []
  rw [State.payload, hl.payloadBuffer_awaitLengthLow hs, List.map_nil]

/-- The two length bytes are the halves of the length they form, so the head of that frame is what has been consumed. -/
theorem acceptLengthLow_legal (hl : s.Legal) (hs : s.state = .awaitLengthLow) : (acceptLengthLow b s).Legal := by
  have hcount := hl.payloadCount_awaitLengthLow hs
  have hafter : (acceptLengthLow b s).state = .accumulatingPayload ∨ (acceptLengthLow b s).state = .awaitChecksum := by
    rw [acceptLengthLow_state]
    split <;> simp
  refine hl.of_accept (b := b) ?regs hl.indices rfl ?bytes
  case bytes =>
    rw [State.frameBytes_afterLength hafter, acceptLengthLow_payload hl hs, State.frameBytes_awaitLengthLow hs]
    simp [frameHead]
  case regs =>
    have hhigh : s.lengthHighByte = lengthHigh (assembleLength s.lengthHighByte b) :=
      (lengthHigh_assembleLength s.lengthHighByte b).symm
    have hstate := acceptLengthLow_state b s
    split at hstate
    · next hz => exact (State.regsLegal_awaitChecksum hstate).mpr ⟨hcount.trans hz.symm, hhigh⟩
    · next hz =>
      have hpos : 0 < (assembleLength s.lengthHighByte b).toNat :=
        Nat.pos_of_ne_zero fun h => hz (BitVec.eq_of_toNat_eq h)
      refine (State.regsLegal_accumulatingPayload hstate).mpr ⟨?_, hhigh⟩
      simpa [hcount] using hpos

theorem acceptPayloadByte_state (b : Byte) (s : State) :
    (acceptPayloadByte b s).state =
      if s.payloadCount.toNat + 1 = s.expectedLength.toNat then .awaitChecksum else .accumulatingPayload := rfl

@[simp] theorem acceptPayloadByte_payload (b : Byte) (s : State) : (acceptPayloadByte b s).payload = s.payload ++ [b] := by
  simp [acceptPayloadByte, State.payload]

@[simp] theorem acceptPayloadByte_expectedLength (b : Byte) (s : State) :
    (acceptPayloadByte b s).expectedLength = s.expectedLength := rfl

/-- The count does not wrap: it stays at most the length, a 16-bit number (R111, R112). -/
theorem acceptPayloadByte_count (hl : s.Legal) (hs : s.state = .accumulatingPayload) (b : Byte) :
    (acceptPayloadByte b s).payloadCount.toNat = s.payloadCount.toNat + 1 := by
  have hlt := hl.count_lt hs
  have hlen := s.expectedLength.isLt
  change (s.payloadCount + 1#16).toNat = _
  rw [BitVec.toNat_add, BitVec.toNat_ofNat]
  omega

theorem acceptPayloadByte_legal (hl : s.Legal) (hs : s.state = .accumulatingPayload) : (acceptPayloadByte b s).Legal := by
  have hcount := acceptPayloadByte_count hl hs b
  obtain ⟨hlt, hhigh⟩ := (State.regsLegal_accumulatingPayload hs).mp hl.regs
  have hafter : (acceptPayloadByte b s).state = .accumulatingPayload ∨ (acceptPayloadByte b s).state = .awaitChecksum := by
    rw [acceptPayloadByte_state]
    split <;> simp
  refine hl.of_accept (b := b) ?regs ?indices rfl ?bytes
  case regs =>
    have hstate := acceptPayloadByte_state b s
    split at hstate
    · next hlast =>
      exact (State.regsLegal_awaitChecksum hstate).mpr ⟨BitVec.eq_of_toNat_eq (hcount.trans hlast), hhigh⟩
    · next hmore =>
      refine (State.regsLegal_accumulatingPayload hstate).mpr ⟨?_, hhigh⟩
      rw [hcount]
      exact lt_of_le_of_ne hlt hmore
  case indices =>
    rw [hcount, List.range_succ, ← hl.indices]
    exact List.map_append
  case bytes =>
    rw [State.frameBytes_afterLength hafter, State.frameBytes_afterLength (.inl hs), acceptPayloadByte_payload,
      List.append_assoc]
    rfl

/-! ### Every byte keeps the registers legal -/

/-- In a legal state every byte is consumed and leads to a legal state: the step of the induction that R117 names. -/
theorem State.Legal.consume (hl : s.Legal) (b : Byte) : ∃ t, consume b s = .next t ∧ t.Legal := by
  have hreset (out : Option (List Byte)) : State.Legal { State.reset with out := out, pending := s.pending } :=
    legal_of_reset s.pending
  by_cases hh : s.headerSearch = true
  · by_cases hb : b = Config.hdr0
    · exact ⟨_, consume_headerSearch_hit hl hh hb, acceptFirstHeader_legal hl hh⟩
    · exact ⟨_, consume_headerSearch_miss hl hh hb, skip_legal hl hh⟩
  · cases hs : s.state
    case idle => exact absurd (State.headerSearch_iff.mpr (.inl hs)) hh
    case awaitFirstHeaderByte => exact absurd (State.headerSearch_iff.mpr (.inr hs)) hh
    case awaitSecondHeaderByte =>
      by_cases hb : b = Config.hdr1
      · exact ⟨_, consume_awaitSecondHeaderByte_hit hl hs hb, acceptSecondHeader_legal hl hs⟩
      · exact ⟨_, consume_awaitSecondHeaderByte_miss hl hs hb, hreset none⟩
    case awaitLengthHigh => exact ⟨_, consume_awaitLengthHigh hl hs, acceptLengthHigh_legal hl hs⟩
    case awaitLengthLow => exact ⟨_, consume_awaitLengthLow hl hs, acceptLengthLow_legal hl hs⟩
    case accumulatingPayload => exact ⟨_, consume_accumulatingPayload hl hs, acceptPayloadByte_legal hl hs⟩
    case awaitChecksum =>
      by_cases hb : b = s.checkValue
      · exact ⟨_, consume_awaitChecksum_match hl hs hb, hreset (some s.payload)⟩
      · exact ⟨_, consume_awaitChecksum_mismatch hl hs hb, hreset none⟩

/-- The induction over the stream, once: legality is kept by every byte. -/
theorem State.Legal.feed (hl : s.Legal) (bytes : List Byte) :
    ∃ (t : State) (emitted : List (List Byte)), feed bytes s = .next (t, emitted) ∧ t.Legal := by
  induction bytes generalizing s with
  | nil => exact ⟨s, [], rfl, hl⟩
  | cons b rest ih =>
    obtain ⟨t, hstep, ht⟩ := hl.consume b
    obtain ⟨u, emitted, hrest, hu⟩ := ih ht
    exact ⟨u, _, feed_cons hstep hrest, hu⟩

/-- Settles O51 (41_frame_decoder.md R116, R117): the state after RESET is legal, every byte keeps it so, and legal
registers are the listed ones. -/
theorem reachableStatesAsListed : Obligations.ReachableStatesAsListed := by
  intro bytes
  obtain ⟨t, emitted, hfeed, ht⟩ := State.Legal.feed (legal_of_reset []) bytes
  exact ⟨t, emitted, hfeed, ht.reachableRegisters, ht.crc_eq, Nat.le_of_lt_succ t.payloadCount.isLt⟩

end Sys2Proof.Machine
end

section
/-! The obligations on single operations of the frame decoder (41_frame_decoder.md R102 to R114): the next state of each,
written out, its word, and the step that performs it. -/

namespace Sys2Proof.Machine

/-! ### Header -/

/-- Settles O22 (41_frame_decoder.md R102, R104). -/
theorem firstHeaderByteAccepted : Obligations.FirstHeaderByteAccepted := by
  have hupd : upd 0x00#8 0x55#8 = 0xAC#8 := by decide
  refine ⟨rfl, rfl, fun s hl => ⟨fun hs => ?idle, fun hs => ?awaitFirstHeaderByte⟩⟩
  case idle =>
    have hcrc := hl.crc_headerSearch (State.headerSearch_iff.mpr (.inl hs))
    exact ⟨hcrc, by rw [hcrc, hupd], exec_idleHit hl hs, consume_idleHit hs rfl⟩
  case awaitFirstHeaderByte =>
    have hcrc := hl.crc_headerSearch (State.headerSearch_iff.mpr (.inr hs))
    exact ⟨hcrc, by rw [hcrc, hupd], exec_h1Hit hl hs, consume_h1Hit hs rfl⟩

/-- The decoder can stay in AwaitFirstHeaderByte for any number of bytes (R105). -/
theorem feed_headerSearch_misses (bytes : List Byte) (s : State) (hl : s.Legal) (hs : s.state = .awaitFirstHeaderByte)
    (hmiss : 0x55#8 ∉ bytes) : ∃ t, feed bytes s = .next (t, []) ∧ sameRegisters s t := by
  induction bytes generalizing s with
  | nil => exact ⟨s, rfl, rfl, rfl, rfl, rfl, rfl, rfl⟩
  | cons b rest ih =>
    obtain ⟨hb, hrest⟩ := not_or.mp (List.mem_cons.not.mp hmiss)
    have hstep : consume b s = .next s.begin := (consume_h1Miss hs (Ne.symm hb)).trans (exec_h1Miss hl hs (Ne.symm hb))
    obtain ⟨t, hfeed, hsame⟩ := ih s.begin hl hs hrest
    exact ⟨t, feed_cons hstep hfeed, hsame⟩

/-- Settles O23 (41_frame_decoder.md R103, R105); the clause on streams by induction on the bytes. -/
theorem headerSearchMiss : Obligations.HeaderSearchMiss :=
  ⟨fun _ => ⟨rfl, rfl⟩,
    fun _ _ hl hb => ⟨fun hs => ⟨exec_idleMiss hl hs hb, consume_idleMiss hs hb⟩,
      fun hs => ⟨exec_h1Miss hl hs hb, consume_h1Miss hs hb⟩⟩,
    fun s bytes => feed_headerSearch_misses bytes s⟩

/-- Settles O24 (41_frame_decoder.md R106). -/
theorem secondHeaderByteAccepted : Obligations.SecondHeaderByteAccepted := by
  refine ⟨rfl, fun s hl hs => ?_⟩
  have hcrc := hl.crc_awaitSecondHeaderByte hs
  have hupd : upd 0xAC#8 0xAA#8 = 0x12#8 := by decide
  exact ⟨hcrc, by rw [hcrc, hupd], exec_h2Hit hl hs, consume_h2Hit hs rfl⟩

theorem labelOf_eq_headerMismatch_iff (i : Instr) : labelOf i = .headerMismatch ↔ ∃ b, i = .h2Miss b := by
  cases i <;> simp [labelOf]

/-- Settles O25 (41_frame_decoder.md R107, 60_exceptions.md R151). -/
theorem headerMismatchResets : Obligations.HeaderMismatchResets :=
  ⟨fun _ => rfl, labelOf_eq_headerMismatch_iff,
    fun _ _ hl hs hb => ⟨exec_h2Miss hl hs hb, consume_h2Miss hs hb⟩⟩

/-! ### Length -/

/-- Settles O26 (41_frame_decoder.md R108). -/
theorem lengthHighByteStored : Obligations.LengthHighByteStored :=
  ⟨fun _ => rfl, fun _ _ hl hs => ⟨exec_lenh hl hs, hl.crc_awaitLengthHigh hs, consume_lenh hs⟩⟩

theorem assembleLength_eq_ofNat (high low : Byte) :
    assembleLength high low = BitVec.ofNat 16 (256 * high.toNat + low.toNat) := by
  rw [← assembleLength_toNat, BitVec.ofNat_toNat, BitVec.setWidth_eq]

/-- Settles O27 (41_frame_decoder.md R109): the assembled length as a number, non-zero since one of its bytes is. -/
theorem nonZeroLengthAccepted : Obligations.NonZeroLengthAccepted := by
  refine ⟨fun _ => rfl, fun s b hl hs hne => ?_⟩
  have hlen : assembleLength s.lengthHighByte b ≠ 0#16 := by
    rwa [Ne, assembleLength_eq_zero_iff, not_and_or]
  have hn := (lengthNonZero_iff _ _).mpr hlen
  have hpos : 0 < (assembleLength s.lengthHighByte b).toNat := Nat.pos_of_ne_zero fun h => hlen (BitVec.eq_of_toNat_eq h)
  have hmax := (assembleLength s.lengthHighByte b).isLt
  rw [assembleLength_toNat] at hpos hmax
  refine ⟨?_, hl.payloadCount_awaitLengthLow hs, hpos, Nat.le_of_lt_succ hmax, consume_lenlNz hs hn⟩
  rw [exec_lenlNz hl hs hn, acceptLengthLow, if_neg hlen, assembleLength_eq_ofNat]
  rfl

/-- Settles O28 (41_frame_decoder.md R110). -/
theorem zeroLengthAccepted : Obligations.ZeroLengthAccepted := by
  refine ⟨rfl, fun s hl hs hz => ?_⟩
  have hcrc : s.crc = 0x7E#8 := by
    rw [hl.crc_awaitLengthLow hs, hz]
    decide
  have hupd : upd 0x7E#8 0x00#8 = 0x7D#8 := by decide
  have hlen : assembleLength s.lengthHighByte 0x00#8 = 0#16 := (assembleLength_eq_zero_iff _ _).mpr ⟨hz, rfl⟩
  have hn : lengthNonZero s.lengthHighByte 0x00#8 = false := by simp [lengthNonZero, hz]
  refine ⟨?_, hcrc, by rw [hcrc, hupd], hl.payloadBuffer_awaitLengthLow hs, consume_lenlZ hs hn⟩
  rw [exec_lenlZ hl hs hz, acceptLengthLow, if_pos hlen, hlen]
  rfl

/-! ### Payload -/

theorem add_one_eq_ofNat_succ (n : Half) : n + 1#16 = BitVec.ofNat 16 (n.toNat + 1) := by
  rw [BitVec.ofNat_add, BitVec.ofNat_toNat, BitVec.setWidth_eq]

/-- The next state of a payload byte, field by field. -/
theorem acceptPayloadByte_eq (b : Byte) (s : State) :
    acceptPayloadByte b s =
      { s with
        payloadBuffer := s.payloadBuffer ++ [(s.payloadCount.toNat, b)]
        payloadCount := BitVec.ofNat 16 (s.payloadCount.toNat + 1)
        state := if s.payloadCount.toNat + 1 = s.expectedLength.toNat then .awaitChecksum else .accumulatingPayload
        crc := upd s.crc b
        out := none
        encFrame := none } := by
  rw [← add_one_eq_ofNat_succ]
  rfl

/-- Settles O29 (41_frame_decoder.md R111, R112): both operations append, and the count after the append tells them
apart. -/
theorem payloadByteAppended : Obligations.PayloadByteAppended := by
  refine ⟨fun _ => ⟨rfl, rfl⟩, fun s b hl hs => ?_⟩
  have hmax := s.expectedLength.isLt
  refine ⟨fun hmore => ⟨?more, by omega, consume_payMore hs hmore⟩,
    fun hlast => ⟨?last, by omega, consume_payLast hs hlast⟩⟩
  case more => rw [exec_payMore hl hs hmore, acceptPayloadByte_eq, if_neg hmore.ne, ← hs]
  case last => rw [exec_payLast hl hs hlast, acceptPayloadByte_eq, if_pos hlast]

/-! ### Checksum -/

/-- Settles O32 (41_frame_decoder.md R113, R115). -/
theorem checksumMatchEmits : Obligations.ChecksumMatchEmits :=
  ⟨fun _ => rfl, fun _ hl hs =>
    ⟨exec_ckOk hl hs rfl, rfl, hl.readPayload, hl.payload_length_awaitChecksum hs, rfl,
      consume_ckOk hs (hl.crc_eq_checkValue hs).symm⟩⟩

theorem labelOf_eq_checksumMismatch_iff (i : Instr) : labelOf i = .checksumMismatch ↔ ∃ b, i = .ckBad b := by
  cases i <;> simp [labelOf]

/-- Settles O33 (41_frame_decoder.md R114, 60_exceptions.md R152). -/
theorem checksumMismatchResets : Obligations.ChecksumMismatchResets :=
  ⟨fun _ => rfl, labelOf_eq_checksumMismatch_iff, fun _ _ hl hs hb =>
    ⟨exec_ckBad hl hs hb, consume_ckBad hs (hl.crc_eq_checkValue hs ▸ hb)⟩⟩

end Sys2Proof.Machine
end

section
/-! Whole frames on the stream (41_frame_decoder.md R124): the header, the length, the payload and the checksum byte are fed
one after the other, and nothing is emitted before the last of them. -/

namespace Sys2Proof.Machine

variable {s : State}

/-! ### The parts of a frame -/

/-- The decoder has taken a length and that many payload bytes, and awaits the checksum byte. -/
structure State.AwaitsChecksumOf (len : Half) (payload : List Byte) (t : State) : Prop where
  legal : t.Legal
  state : t.state = .awaitChecksum
  expectedLength : t.expectedLength = len
  payload : t.payload = payload

/-- The check value then is the CRC of the frame's head and that payload (R115). -/
theorem State.AwaitsChecksumOf.checkValue {len : Half} {payload : List Byte} {t : State}
    (h : t.AwaitsChecksumOf len payload) : t.checkValue = crcCompute (frameHead len ++ payload) := by
  rw [State.checkValue, h.expectedLength, h.payload]

/-- From header search the two header bytes lead to AwaitLengthHigh. -/
theorem feed_header (hl : s.Legal) (hh : s.headerSearch = true) :
    ∃ t, feed [Config.hdr0, Config.hdr1] s = .next (t, []) ∧ t.Legal ∧ t.state = .awaitLengthHigh := by
  have hfirst := acceptFirstHeader_legal hl hh
  have hsecond := consume_awaitSecondHeaderByte_hit hfirst rfl rfl
  exact ⟨_, feed_cons (consume_headerSearch_hit hl hh rfl) (feed_cons hsecond rfl), acceptSecondHeader_legal hfirst rfl,
    rfl⟩

/-- The payload is counted, not looked at: the bytes still missing lead to AwaitChecksum, with all of them in the buffer. -/
theorem feed_payload (bytes : List Byte) (hl : s.Legal) (hs : s.state = .accumulatingPayload)
    (hlen : s.payloadCount.toNat + bytes.length = s.expectedLength.toNat) :
    ∃ t, feed bytes s = .next (t, []) ∧ t.AwaitsChecksumOf s.expectedLength (s.payload ++ bytes) := by
  induction bytes generalizing s with
  | nil => exact absurd hlen (hl.count_lt hs).ne
  | cons b rest ih =>
    have hstep : consume b s = .next (acceptPayloadByte b s) := consume_accumulatingPayload hl hs
    have hlegal : (acceptPayloadByte b s).Legal := acceptPayloadByte_legal hl hs
    have hstate := acceptPayloadByte_state b s
    have hcount := acceptPayloadByte_count hl hs b
    rw [List.length_cons] at hlen
    split at hstate
    · next hlast =>
      obtain rfl : rest = [] := List.length_eq_zero_iff.mp (by omega)
      exact ⟨_, feed_cons hstep rfl, hlegal, hstate, rfl, acceptPayloadByte_payload b s⟩
    · obtain ⟨t, hfeed, ht⟩ := ih hlegal hstate (by rw [hcount, acceptPayloadByte_expectedLength]; omega)
      rw [acceptPayloadByte_payload, List.append_assoc] at ht
      exact ⟨t, feed_cons hstep hfeed, ht⟩

/-- After the header: the two bytes of a length and that many payload bytes lead to AwaitChecksum (R127). -/
theorem feed_lengthAndPayload (high low : Byte) (payload : List Byte) (hl : s.Legal) (hs : s.state = .awaitLengthHigh)
    (hlen : payload.length = (assembleLength high low).toNat) :
    ∃ t, feed ([high, low] ++ payload) s = .next (t, []) ∧ t.AwaitsChecksumOf (assembleLength high low) payload := by
  have hhigh : (acceptLengthHigh high s).Legal := acceptLengthHigh_legal hl hs
  have hlow : (acceptLengthLow low (acceptLengthHigh high s)).Legal := acceptLengthLow_legal hhigh rfl
  have hbytes : feed [high, low] s = .next (acceptLengthLow low (acceptLengthHigh high s), []) :=
    feed_cons (consume_awaitLengthHigh hl hs) (feed_cons (consume_awaitLengthLow hhigh rfl) rfl)
  have hempty := acceptLengthLow_payload hhigh rfl low
  have hstate := acceptLengthLow_state low (acceptLengthHigh high s)
  split at hstate
  · next hz =>
    replace hz : assembleLength high low = 0#16 := hz
    obtain rfl : payload = [] := List.length_eq_zero_iff.mp (by rw [hlen, hz]; rfl)
    exact ⟨_, hbytes, hlow, hstate, rfl, hempty⟩
  · have hcount : (acceptLengthLow low (acceptLengthHigh high s)).payloadCount = 0#16 :=
      hhigh.payloadCount_awaitLengthLow rfl
    obtain ⟨t, hfeed, ht⟩ := feed_payload payload hlow hstate (by rw [hcount, hlen]; exact Nat.zero_add _)
    rw [hempty] at ht
    exact ⟨t, feed_append hbytes hfeed, ht⟩

/-- A frame up to its checksum byte, from header search: nothing is emitted. -/
theorem feed_frameHead_payload (len : Half) (payload : List Byte) (hl : s.Legal) (hh : s.headerSearch = true)
    (hlen : payload.length = len.toNat) :
    ∃ t, feed (frameHead len ++ payload) s = .next (t, []) ∧ t.AwaitsChecksumOf len payload := by
  obtain ⟨t, hheader, ht, hs⟩ := feed_header hl hh
  obtain ⟨u, hrest, hu⟩ := feed_lengthAndPayload (lengthHigh len) (lengthLow len) payload ht hs (by simpa using hlen)
  rw [assembleLength_halves] at hu
  exact ⟨u, feed_append hheader hrest, hu⟩

/-! ### The first bytes of a stream -/

/-- A stream that is consumed whole, taken apart after its first byte. -/
theorem feed_cons_next {b : Byte} {rest : List Byte} {u : State} {emitted : List (List Byte)}
    (h : feed (b :: rest) s = .next (u, emitted)) :
    ∃ t emitted', consume b s = .next t ∧ feed rest t = .next (u, emitted') ∧ emitted = t.out.toList ++ emitted' := by
  simp only [feed] at h
  split at h
  · next t hstep =>
    split at h
    · next v emitted' hrest =>
      simp only [Host.Outcome.next.injEq, Prod.mk.injEq] at h
      obtain ⟨rfl, rfl⟩ := h
      exact ⟨t, emitted', hstep, hrest, rfl⟩
    · cases h
    · cases h
  · cases h
  · cases h

/-- A stream that is consumed without an emission is so up to any of its bytes. -/
theorem feed_take_silent {u : State} {bytes : List Byte} (h : feed bytes s = .next (u, [])) (k : Nat) :
    ∃ t, feed (bytes.take k) s = .next (t, []) := by
  induction bytes generalizing s k with
  | nil => exact ⟨s, by rw [List.take_nil]; rfl⟩
  | cons b rest ih =>
    cases k with
    | zero => exact ⟨s, rfl⟩
    | succ k =>
      obtain ⟨t, emitted, hstep, hrest, hnone⟩ := feed_cons_next h
      obtain ⟨hout, rfl⟩ := List.append_eq_nil_iff.mp hnone.symm
      obtain ⟨v, hv⟩ := ih hrest k
      exact ⟨v, by rw [List.take_succ_cons, feed_cons hstep hv, hout, List.nil_append]⟩

/-! ### The round trip -/

/-- The frame is what is fed before the checksum byte, and that byte. -/
theorem frameOf_eq_concat (payload : List Byte) :
    frameOf payload = frameHead (lengthField payload.length) ++ payload ++
      [crcCompute (frameHead (lengthField payload.length) ++ payload)] := rfl

/-- Settles O53 (41_frame_decoder.md R124): up to the checksum byte the frame is consumed silently, and so are its first
bytes, however many; that byte is the check value, so the step of the last byte emits. -/
theorem roundTrip : Obligations.RoundTrip := by
  intro payload s hmax hl hh
  rw [frameOf_eq_concat]
  obtain ⟨t, hfeed, ht⟩ := feed_frameHead_payload (lengthField payload.length) payload hl hh (lengthField_toNat hmax).symm
  constructor
  · have hlast := consume_awaitChecksum_match ht.legal ht.state ht.checkValue.symm
    rw [ht.payload] at hlast
    exact ⟨_, feed_append hfeed (feed_cons hlast rfl), rfl⟩
  · intro k hk
    rw [List.length_append, List.length_singleton] at hk
    rw [List.take_append_of_le_length (Nat.le_of_lt_succ hk)]
    exact feed_take_silent hfeed k

end Sys2Proof.Machine
end

section
/-! The length of an encoded frame (42_frame_encoder.md R142): four head bytes whatever the length field holds, so also
where the length has wrapped (R144), then the payload and the checksum byte. -/

namespace Sys2Proof.Machine

@[simp] theorem frameHead_length (len : Half) : (frameHead len).length = 4 := rfl

/-- Settles O16 (42_frame_encoder.md R142): the lengths of the frame's head, the payload and the checksum byte, added. -/
theorem encodedLength : Obligations.EncodedLength := by
  intro payload
  calc (frameOf payload).length
    _ = (frameHead (lengthField payload.length)).length + payload.length + 1 := by
      rw [frameOf_eq_concat, List.length_append, List.length_append, List.length_singleton]
    _ = payload.length + 5 := by rw [frameHead_length]; omega

end Sys2Proof.Machine
end

section
/-! RESET and the full resets (70_reset_and_hazards.md R170 to R174): each goes through `State.fullReset` from the
results-cleared state, so each leaves the registers of the state after RESET. -/

namespace Sys2Proof.Machine

variable {s t : State} {b : Byte}

/-! ### RESET -/

/-- RESET asks nothing of the state it starts from (R172, R174): it runs outside R117 too. -/
theorem exec_reset (s : State) : exec .reset s = .next { State.reset with pending := s.pending } :=
  congrArg Host.Outcome.next s.begin_fullReset

/-- With `rst` the word is RESET's, whatever the control state and the other ports hold. -/
theorem wordOf_rst (tag : ControlState) (inValid : Bool) (b : Byte) :
    wordOf tag (.top true inValid b) = .top (portPair true inValid) := rfl

/-- A step performs what the port values on top of `pending` select. -/
theorem step_of_decode {v : Stimulus} {rest : List Stimulus} {i : Instr} (hp : s.pending = v :: rest)
    (h : decode s.decodeContext (wordOf s.state v) = .ok i) : step s = exec i { s with pending := rest } := by
  have hfetch : s.fetch = wordOf s.state v := by rw [State.fetch, State.stimulus, hp]
  have hadvance : s.advance = { s with pending := rest } := by rw [State.advance, hp, List.tail_cons]
  rw [step, hfetch, h, ← hadvance]

/-! ### The full resets of the frame decoder -/

theorem sameRegisters_begin_fullReset (s : State) : sameRegisters s.begin.fullReset State.reset :=
  ⟨rfl, rfl, rfl, rfl, rfl, rfl⟩

/-- What a full reset emits is no register. -/
theorem sameRegisters_begin_fullReset_emit (s : State) (p : List Byte) :
    sameRegisters (s.begin.fullReset.emit p) State.reset := sameRegisters_begin_fullReset s

/-- A guarded operation whose effect is one next state answers no other. -/
theorem perform_next_eq {c : Bool} {u : State} (h : perform c s (.next u) = .next t) : t = u := by
  obtain ⟨_, _, hnext⟩ := perform_next h
  exact (Host.Outcome.next.inj hnext).symm

/-- All that CK.OK can do: a full reset that emits the payload read before it (R113). -/
theorem exec_ckOk_next (h : exec (.ckOk b) s = .next t) :
    ∃ p, s.readPayload = .ok p ∧ t = s.begin.fullReset.emit p := by
  obtain ⟨_, _, heffect⟩ := perform_next h
  obtain ⟨p, hread, hnext⟩ := orFault_next heffect
  exact ⟨p, hread, (Host.Outcome.next.inj hnext).symm⟩

/-- All that CK.BAD can do (R114). -/
theorem exec_ckBad_next (h : exec (.ckBad b) s = .next t) : t = s.begin.fullReset :=
  perform_next_eq h

/-- All that H2.MISS can do (R107). -/
theorem exec_h2Miss_next (h : exec (.h2Miss b) s = .next t) : t = s.begin.fullReset :=
  perform_next_eq h

/-! ### The obligations -/

/-- Settles O19 (70_reset_and_hazards.md R171): RESET's next state is written out, and each of the three other operations
answers, where it answers a state, the same full reset. -/
theorem resetLeavesResetValues : Obligations.ResetLeavesResetValues := by
  refine ⟨fun s => ⟨_, exec_reset s, rfl, rfl, rfl, rfl, rfl, rfl, rfl, rfl, rfl⟩, ?fullResets⟩
  case fullResets =>
    rintro s t b (hok | hbad | hmiss)
    · obtain ⟨p, _, rfl⟩ := exec_ckOk_next hok
      exact sameRegisters_begin_fullReset_emit s p
    · rw [exec_ckBad_next hbad]
      exact sameRegisters_begin_fullReset s
    · rw [exec_h2Miss_next hmiss]
      exact sameRegisters_begin_fullReset s

/-- Settles O20 (70_reset_and_hazards.md R173): with `rst` the word decodes to RESET for both values of `in_valid`. -/
theorem resetWinsOverByte : Obligations.ResetWinsOverByte := by
  intro s inValid b rest hp
  have hreset : decode s.decodeContext (wordOf s.state (.top true inValid b)) = .ok .reset := by
    rw [wordOf_rst, decode_rst]
  rw [step_of_decode hp hreset, exec_reset]

end Sys2Proof.Machine
end

section
/-! The bijection law of ENG (40_crc_engine.md R90): the shift is undone bit by bit, so the update never merges two register
values, and which corruptions of a payload the checksum misses (60_exceptions.md section 5). -/

namespace Sys2Proof.Machine

/-! ### The register is recovered -/

/-- A register value below the fed-back bits is recovered from its shift, since bit 0 of the shift is the old bit 7. -/
theorem getLsbD_eq_xor_shift1 (a : Byte) {k : Nat} (hk : k < 2) :
    a.getLsbD k = ((shift1 a).getLsbD (k + 1) ^^ (shift1 a).getLsbD 0) := by
  have hfed : decide (k + 1 < 3) = true := decide_eq_true (by omega)
  rw [getLsbD_shift1_succ a (by omega), getLsbD_shift1_zero, hfed, Bool.true_and, Bool.xor_assoc, Bool.xor_self,
    Bool.xor_false]

/-- The bits above the fed-back ones are moved and nothing else. -/
theorem getLsbD_eq_shift1_succ (a : Byte) {k : Nat} (hlow : 2 ≤ k) (hk : k < 7) :
    a.getLsbD k = (shift1 a).getLsbD (k + 1) := by
  have hnofeed : decide (k + 1 < 3) = false := decide_eq_false (by omega)
  rw [getLsbD_shift1_succ a hk, hnofeed, Bool.false_and, Bool.xor_false]

theorem upd_injective (b : Byte) : Function.Injective (fun a => upd a b) :=
  fun _ _ h => (BitVec.xor_left_inj b).mp (shifts_injective 8 h)

/-- Two register values that agree after the same bytes were equal. -/
theorem foldl_upd_injective (bytes : List Byte) : Function.Injective (fun a => bytes.foldl upd a) := by
  induction bytes with
  | nil => exact fun _ _ h => h
  | cons b rest ih => exact ih.comp (upd_injective b)

/-! ### What the checksum misses -/

theorem foldl_upd_replicate_zero (k : Nat) : (List.replicate k 0x00#8).foldl upd 0x00#8 = 0x00#8 :=
  crcCompute_replicate_zero k

/-- Settles O8 (60_exceptions.md section 5): by linearity the pattern's own CRC is what the CRC changes by; a non-zero byte
moves the register off zero, and no later byte merges the two. -/
theorem undetectedCorruption : Obligations.UndetectedCorruption := by
  refine ⟨fun head payload e hlen => ?missed, fun j k x hx hzero => ?single⟩
  case missed =>
    have hlinear : (List.zipWith (· ^^^ ·) payload e).foldl upd (crcCompute head) =
        payload.foldl upd (crcCompute head) ^^^ crcCompute e := by
      rw [← BitVec.xor_zero (x := crcCompute head), foldl_upd_zipWith_xor _ _ _ _ hlen.symm, BitVec.xor_zero]
      rfl
    rw [crcCompute_append, crcCompute_append, hlinear]
    simp
  case single =>
    rw [crcCompute_append, crcCompute_replicate_zero, List.foldl_cons] at hzero
    have hupd : upd Config.crcInit x = 0x00#8 :=
      foldl_upd_injective _ (hzero.trans (foldl_upd_replicate_zero k).symm)
    exact hx ((upd_eq_zero_iff _ _).mp hupd)

end Sys2Proof.Machine
end

section
/-! The wire format (30_encoding.md section 1): a valid frame is a head, as many bytes as its length says, and the CRC of
both, which is what the encoder makes of those bytes. -/

namespace Sys2Proof.Machine

/-- The comparisons of R67, on whatever follows the four bytes of the head. -/
theorem validFrame_of_tail (h0 h1 lh ll : Byte) {tail : List Byte} (htail : tail ≠ []) :
    validFrame (h0 :: h1 :: lh :: ll :: tail) =
      (h0 == Config.hdr0 && h1 == Config.hdr1 && tail.length == (assembleLength lh ll).toNat + 1 &&
        tail.getLast? == some (crcCompute (h0 :: h1 :: lh :: ll :: tail.dropLast))) := by
  cases tail with
  | nil => contradiction
  | cons c rest => rfl

/-- R67 for a sequence that is a head, a payload and one more byte. -/
theorem validFrame_concat_iff (len : Half) (payload : List Byte) (c : Byte) :
    validFrame (frameHead len ++ payload ++ [c]) = true ↔
      payload.length = len.toNat ∧ c = crcCompute (frameHead len ++ payload) := by
  have hshape : frameHead len ++ payload ++ [c] =
      Config.hdr0 :: Config.hdr1 :: lengthHigh len :: lengthLow len :: (payload ++ [c]) := by
    simp [frameHead]
  rw [hshape, validFrame_of_tail _ _ _ _ (List.concat_ne_nil c payload)]
  simp [frameHead]

/-- A valid frame has that form. -/
theorem exists_eq_concat_of_validFrame {f : List Byte} (h : validFrame f = true) :
    ∃ len payload c, f = frameHead len ++ payload ++ [c] := by
  match f with
  | h0 :: h1 :: lh :: ll :: c :: rest =>
    rw [validFrame_of_tail _ _ _ _ (List.cons_ne_nil c rest)] at h
    simp only [Bool.and_eq_true, beq_iff_eq] at h
    obtain ⟨⟨⟨rfl, rfl⟩, -⟩, -⟩ := h
    refine ⟨assembleLength lh ll, (c :: rest).dropLast, (c :: rest).getLast (List.cons_ne_nil c rest), ?_⟩
    rw [List.append_assoc, List.dropLast_concat_getLast]
    simp [frameHead]

/-- A length that is the payload's is what the encoder writes. -/
theorem eq_lengthField {payload : List Byte} {len : Half} (h : payload.length = len.toNat) :
    len = lengthField payload.length := by
  rw [h, lengthField, BitVec.ofNat_toNat, BitVec.setWidth_eq]

/-- Settles O17 (30_encoding.md R67, 42_frame_encoder.md R141). -/
theorem validFramesAreEncodings : Obligations.ValidFramesAreEncodings := by
  intro f
  constructor
  · intro hvalid
    obtain ⟨len, payload, c, rfl⟩ := exists_eq_concat_of_validFrame hvalid
    obtain ⟨hlen, rfl⟩ := (validFrame_concat_iff len payload c).mp hvalid
    refine ⟨payload, ?_, ?_⟩
    · rw [hlen]
      exact Nat.le_of_lt_succ len.isLt
    · rw [frameOf_eq_concat, ← eq_lengthField hlen]
  · rintro ⟨payload, hmax, rfl⟩
    rw [frameOf_eq_concat]
    exact (validFrame_concat_iff _ payload _).mpr ⟨(lengthField_toNat hmax).symm, rfl⟩

/-- Settles O4 (40_crc_engine.md R90): an injective map of the bytes into themselves is a bijection, and R67 asks of the last
byte that it be the CRC of those before it. -/
theorem shiftAndUpdateBijective : Obligations.ShiftAndUpdateBijective := by
  refine ⟨fun a => ⟨(getLsbD_shift1_zero a).symm, getLsbD_eq_xor_shift1 a Nat.zero_lt_two,
      getLsbD_eq_xor_shift1 a Nat.one_lt_two, ?moved⟩,
    Finite.injective_iff_bijective.mp shift1_injective, Finite.injective_iff_bijective.mp (shifts_injective 8),
    fun b => Finite.injective_iff_bijective.mp (upd_injective b), fun bytes _ _ h => foldl_upd_injective bytes h,
    fun payload hmax => ?checksum⟩
  case moved =>
    intro k h3 h7
    obtain ⟨j, rfl⟩ := Nat.exists_eq_add_of_le' h3
    exact getLsbD_eq_shift1_succ a (Nat.le_add_left 2 j) (by omega)
  case checksum =>
    refine ⟨_, (validFrame_concat_iff _ payload _).mpr ⟨(lengthField_toNat hmax).symm, rfl⟩, fun c hc => ?_⟩
    exact ((validFrame_concat_iff _ payload c).mp hc).2

end Sys2Proof.Machine
end

section
/-! ENG's operations on the register (40_crc_engine.md R81 to R85), each by itself and several one after another, and ENG
used alone. -/

namespace Sys2Proof.Machine

variable {s t : State} {b : Byte}

/-! ### The commands by themselves -/

/-- The operations one after another, taken apart after the first. -/
theorem execAll_cons {i : Instr} {rest : List Instr} (h : exec i s = .next t) :
    execAll (i :: rest) s = execAll rest t := by
  simp only [execAll, h]

/-- Settles O9 (40_crc_engine.md R83; assumption logs 2 and 9). -/
theorem crcClrClearsRegister : Obligations.CrcClrClearsRegister := by
  refine ⟨fun ctx en din => decode_crcClr ctx din en, fun _ => rfl, fun _ => rfl, fun s t h => ?_⟩
  obtain rfl := Host.Outcome.next.inj h
  rfl

/-- Settles O10 (40_crc_engine.md R82; assumption logs 2 and 9); the corner cases by evaluation. -/
theorem crcByteUpdatesRegister : Obligations.CrcByteUpdatesRegister :=
  ⟨fun ctx din => decode_crcByte ctx din, fun _ _ => rfl, by decide, upd_self, by decide⟩

/-- Any number of CRC.HOLD (R84). -/
theorem execAll_replicate_crcHold (n : Nat) (s : State) :
    ∃ t, execAll (List.replicate n .crcHold) s = .next t ∧ t.crc = s.crc := by
  induction n generalizing s with
  | zero => exact ⟨s, rfl, rfl⟩
  | succ n ih => exact ih s.begin

/-- Settles O11 (40_crc_engine.md R84; assumption logs 2, 9 and 13): what the three DEC operations write is no `crc`. -/
theorem crcHoldKeepsRegister : Obligations.CrcHoldKeepsRegister := by
  refine ⟨fun ctx din => decode_crcHold ctx din, fun _ => rfl, execAll_replicate_crcHold, ?_⟩
  rintro s t b (hidle | hfirst | hhold)
  · rw [perform_next_eq hidle]
    rfl
  · rw [perform_next_eq hfirst]
    rfl
  · obtain rfl := Host.Outcome.next.inj hhold
    rfl

/-- Settles O12 (40_crc_engine.md R81; assumption logs 2 and 10). -/
theorem crcBitShiftsRegister : Obligations.CrcBitShiftsRegister :=
  fun _ => rfl

/-! ### CRC.COMPUTE -/

/-- Absorbing bytes one after another writes the register alone. -/
theorem foldl_absorb (bytes : List Byte) (s : State) :
    bytes.foldl (fun t b => t.absorb b) s = { s with crc := bytes.foldl upd s.crc } := by
  induction bytes generalizing s with
  | nil => rfl
  | cons b rest ih => exact ih (s.absorb b)

/-- CRC.BYTE once per byte, from a state whose results are cleared: clearing them again changes nothing. -/
theorem execAll_crcByte (bytes : List Byte) (hs : s.begin = s) :
    execAll (bytes.map .crcByte) s = .next (bytes.foldl (fun t b => t.absorb b) s) := by
  induction bytes generalizing s with
  | nil => rfl
  | cons b rest ih =>
    have hbyte : exec (.crcByte b) s = .next (s.absorb b) := congrArg (fun u => Host.Outcome.next (State.absorb b u)) hs
    have habsorb : (s.absorb b).begin = s.absorb b := congrArg (State.absorb b) hs
    rw [List.map_cons, execAll_cons hbyte, ih habsorb, List.foldl_cons]

theorem exec_crcCompute (bytes : List Byte) (s : State) :
    exec (.crcCompute bytes) s = .next { s with crc := crcCompute bytes, out := none, encFrame := none } :=
  congrArg Host.Outcome.next (foldl_absorb bytes s.begin.clearCrc)

/-- Settles O13 (40_crc_engine.md R85, R76; assumption logs 2 and 11). -/
theorem crcComputeIsExpansion : Obligations.CrcComputeIsExpansion := by
  refine ⟨fun bytes s => ⟨exec_crcCompute bytes s, ?_⟩, rfl, crcCompute_concat⟩
  have hclear : exec .crcClr s = .next s.begin.clearCrc := rfl
  rw [execAll_cons hclear, execAll_crcByte bytes rfl]
  rfl

/-! ### ENG alone -/

/-- Between clears only the byte commands count. -/
theorem foldl_engNext (steps : List EngPorts) (q : Byte) (hclr : steps.all (fun p => !p.crcClr) = true) :
    steps.foldl (fun r p => engNext p r) q = ((steps.filter EngPorts.crcEn).map EngPorts.crcDin).foldl upd q := by
  induction steps generalizing q with
  | nil => rfl
  | cons p rest ih =>
    obtain ⟨clr, en, din⟩ := p
    rw [List.all_cons, Bool.and_eq_true] at hclr
    obtain ⟨hp, hrest⟩ := hclr
    obtain rfl : clr = false := by simpa using hp
    cases en
    · exact ih q hrest
    · exact ih (upd q din) hrest

/-- Settles O60 (40_crc_engine.md section 1, R80): the clear starts the fold at CRC_INIT, whatever the register held. -/
theorem engAloneComputes : Obligations.EngAloneComputes :=
  ⟨fun q din en => engNext_clear en din q, fun q din => engNext_byte din q, fun q din => engNext_hold din q,
    fun _ steps hclr => foldl_engNext steps Config.crcInit hclr⟩

end Sys2Proof.Machine
end

section
/-! ENCODE (42_frame_encoder.md R141, R144): the frame stands in `encFrame`, beyond 65535 bytes as OVERSIZE_POLICY says. -/

namespace Sys2Proof.Machine

/-- The sender's halves are the number's own, as R141 writes them. -/
theorem lengthHigh_lengthField (n : Nat) : lengthHigh (lengthField n) = BitVec.ofNat 8 (n >>> 8) :=
  BitVec.eq_of_toNat_eq <| by
    rw [lengthHigh_lengthField_toNat, BitVec.toNat_ofNat]
    exact Nat.and_two_pow_sub_one_eq_mod _ 8

theorem lengthLow_lengthField (n : Nat) : lengthLow (lengthField n) = BitVec.ofNat 8 n :=
  BitVec.eq_of_toNat_eq <| by
    rw [lengthLow_lengthField_toNat, BitVec.toNat_ofNat]
    exact Nat.and_two_pow_sub_one_eq_mod _ 8

theorem frameHead_lengthField (n : Nat) :
    frameHead (lengthField n) = [0x55#8, 0xAA#8, BitVec.ofNat 8 (n >>> 8), BitVec.ofNat 8 n] := by
  rw [frameHead, lengthHigh_lengthField, lengthLow_lengthField]
  rfl

/-- Settles O14 (42_frame_encoder.md R141; assumption logs 2 and 3). -/
theorem encodeGivesFrame : Obligations.EncodeGivesFrame := by
  intro payload s hmax
  rw [← frameHead_lengthField]
  exact if_pos hmax

/-- Settles O15 (42_frame_encoder.md R144; assumption logs 2, 3 and 4). -/
theorem encodeOversizeFollowsPolicy : Obligations.EncodeOversizeFollowsPolicy := by
  intro payload s hover
  exact if_neg (Nat.not_le.mpr hover)

end Sys2Proof.Machine
end

section
/-! The map of operations (30_encoding.md R70, R71, R73): which keys and port pairs the decoder answers, that it and the
encoder are inverse under each row's condition, and that in a legal state one row applies to every byte. -/

namespace Sys2Proof

open Sys2Proof.Machine

variable {ctx : DecodeContext} {key : BitVec 11} {i : Instr}

/-! ### The reserved state code -/

/-- Every row compares the whole state field, with the code of a control state. -/
theorem keyRows_stateField : ∀ r ∈ keyRows, keyState r.mask = 7#3 ∧ keyState r.pattern ≠ 7#3 := by
  decide

theorem keyState_and (key mask : BitVec 11) : keyState (key &&& mask) = keyState key &&& keyState mask :=
  BitVec.extractLsb'_and

/-- A row that applies to a key has its state field. -/
theorem keyState_pattern_of_applies {r : KeyRow} (hr : r ∈ keyRows) (happ : r.applies ctx key = true) :
    keyState r.pattern = keyState key := by
  have hmatch : key &&& r.mask = r.pattern := by
    simp only [KeyRow.applies, Bool.and_eq_true, beq_iff_eq] at happ
    obtain ⟨⟨hmatch, -⟩, -⟩ := happ
    exact hmatch
  obtain ⟨hmask, -⟩ := keyRows_stateField r hr
  rw [← hmatch, keyState_and, hmask]
  exact BitVec.and_allOnes

theorem decode_reservedStateCode (hkey : keyState key = 7#3) : decode ctx (.dec key) = .error .reservedStateCode := by
  have hnone : rowsApplying ctx key = [] :=
    List.filter_eq_nil_iff.mpr fun r hr happ =>
      (keyRows_stateField r hr).2 ((keyState_pattern_of_applies hr happ).trans hkey)
  simp only [decode, decodeDec, hnone, hkey, if_true]

theorem stateCode_ne_reserved (st : ControlState) : stateCode st ≠ 7#3 := by
  cases st <;> decide

/-- A state field is the code of a control state, or the reserved one. -/
theorem stateOfCode_cases (code : BitVec 3) : (∃ st, stateOfCode code = some st) ∨ code = 7#3 := by
  rw [← Option.isSome_iff_exists]
  revert code
  decide

/-! ### The bytes of AccumulatingPayload where the buffer is full -/

theorem decode_accumulatingPayload_full (b : Byte) (hfull : ctx.expectedLength.toNat ≤ ctx.payloadCount.toNat) :
    decode ctx (.dec (decodeKey .accumulatingPayload b)) = .error .noRow := by
  have hmore : morePayload ctx.payloadCount ctx.expectedLength = false := decide_eq_false (by omega)
  have hlast : lastPayload ctx.payloadCount ctx.expectedLength = false := decide_eq_false (by omega)
  rw [decode_accumulatingPayload, hmore, hlast]
  rfl

/-! ### The encoder and the decoder -/

/-- Decoding undoes encoding, for an operand that the row leaves open and in registers that meet the row's condition. -/
theorem decode_encode {w : OpWord} (hwf : WellFormed i) (henc : encode i = some w) (hsel : selectedIn ctx i = true) :
    decode ctx w = .ok i := by
  cases i <;> cases henc
  case idleHit => exact decode_idle ctx Config.hdr0
  case idleMiss b => rw [decode_idle, if_neg (by simpa [WellFormed, illFormed?] using hwf)]
  case h1Hit => exact decode_awaitFirstHeaderByte ctx Config.hdr0
  case h1Miss b => rw [decode_awaitFirstHeaderByte, if_neg (by simpa [WellFormed, illFormed?] using hwf)]
  case h2Hit => exact decode_awaitSecondHeaderByte ctx Config.hdr1
  case h2Miss b => rw [decode_awaitSecondHeaderByte, if_neg (by simpa [WellFormed, illFormed?] using hwf)]
  case lenh b => exact decode_awaitLengthHigh ctx b
  case lenlNz b => exact (decode_awaitLengthLow ctx b).trans (congrArg Except.ok (if_pos hsel))
  case lenlZ =>
    have hz : lengthNonZero ctx.lengthHighByte 0x00#8 = false := by
      simpa [selectedIn, lengthZero, lengthNonZero] using hsel
    rw [decode_awaitLengthLow, hz]
    rfl
  case payMore b => exact (decode_accumulatingPayload ctx b).trans (if_pos hsel)
  case payLast b =>
    have hlast : ctx.payloadCount.toNat + 1 = ctx.expectedLength.toNat := of_decide_eq_true hsel
    have hmore : morePayload ctx.payloadCount ctx.expectedLength = false := decide_eq_false (by omega)
    rw [decode_accumulatingPayload, hmore]
    exact if_pos hsel
  case ckOk b => exact (decode_awaitChecksum ctx b).trans (congrArg Except.ok (if_pos hsel))
  case ckBad b =>
    have hbad : checksumMatches b ctx.crc = false := by simpa [selectedIn] using hsel
    rw [decode_awaitChecksum, hbad]
    rfl
  case reset => exact decode_rst ctx false
  case decHold => exact decode_noByte ctx
  case crcClr => exact decode_crcClr ctx 0x00#8 false
  case crcByte din => exact decode_crcByte ctx din
  case crcHold => exact decode_crcHold ctx 0x00#8

/-- What a control state's key decodes to has that key, and its operand and the registers are as its row says. -/
theorem decode_decodeKey_sound {st : ControlState} {b : Byte} (h : decode ctx (.dec (decodeKey st b)) = .ok i) :
    encode i = some (.dec (decodeKey st b)) ∧ WellFormed i ∧ selectedIn ctx i = true := by
  cases st
  case idle | awaitFirstHeaderByte | awaitSecondHeaderByte =>
    simp only [decode_idle, decode_awaitFirstHeaderByte, decode_awaitSecondHeaderByte, Except.ok.injEq] at h
    split at h <;> subst h
    · next hb => exact ⟨hb ▸ rfl, rfl, rfl⟩
    · next hb => exact ⟨rfl, if_neg hb, rfl⟩
  case awaitLengthHigh =>
    rw [decode_awaitLengthHigh, Except.ok.injEq] at h
    subst h
    exact ⟨rfl, rfl, rfl⟩
  case awaitLengthLow =>
    rw [decode_awaitLengthLow, Except.ok.injEq] at h
    split at h <;> subst h
    · next hn => exact ⟨rfl, rfl, hn⟩
    · next hn =>
      obtain ⟨hhigh, rfl⟩ : ctx.lengthHighByte = 0#8 ∧ b = 0#8 := by simpa [lengthNonZero] using hn
      exact ⟨rfl, rfl, by simp [selectedIn, lengthZero, hhigh]⟩
  case accumulatingPayload =>
    rw [decode_accumulatingPayload] at h
    split at h
    · next hmore => cases h; exact ⟨rfl, rfl, hmore⟩
    · split at h
      · next hlast => cases h; exact ⟨rfl, rfl, hlast⟩
      · cases h
  case awaitChecksum =>
    rw [decode_awaitChecksum, Except.ok.injEq] at h
    split at h <;> subst h
    · next hok => exact ⟨rfl, rfl, hok⟩
    · next hbad => exact ⟨rfl, rfl, by simpa [selectedIn] using hbad⟩

/-- The same for a key as eleven bits: the reserved state code decodes to nothing, any other is a control state's. -/
theorem decode_dec_sound (h : decode ctx (.dec key) = .ok i) :
    encode i = some (.dec key) ∧ WellFormed i ∧ selectedIn ctx i = true := by
  rcases stateOfCode_cases (keyState key) with ⟨st, hst⟩ | hreserved
  · rw [← decodeKey_of_stateOfCode key st hst] at h ⊢
    exact decode_decodeKey_sound h
  · rw [decode_reservedStateCode hreserved] at h
    cases h

/-- An operation's own key selects it exactly where its row's conditions hold. -/
theorem decode_dec_iff (henc : encode i = some (.dec key)) :
    decode ctx (.dec key) = .ok i ↔ WellFormed i ∧ selectedIn ctx i = true :=
  ⟨fun h => (decode_dec_sound h).2, fun ⟨hwf, hsel⟩ => decode_encode hwf henc hsel⟩

theorem decodeTop_cases {pair : BitVec 2} (h : decode ctx (.top pair) = .ok i) : i = .reset ∨ i = .decHold := by
  simp only [decode, decodeTop] at h
  split at h
  · exact .inl (Except.ok.inj h).symm
  · split at h
    · exact .inr (Except.ok.inj h).symm
    · cases h

theorem decodeEng_cases {pair : BitVec 2} {din : Byte} (h : decode ctx (.eng pair din) = .ok i) :
    i = .crcClr ∨ i = .crcByte din ∨ i = .crcHold := by
  simp only [decode, decodeEng] at h
  split at h
  · exact .inl (Except.ok.inj h).symm
  · split at h
    · exact .inr (.inl (Except.ok.inj h).symm)
    · exact .inr (.inr (Except.ok.inj h).symm)

/-- Whatever word an operation was decoded from, it is well formed and has a word in whose registers it is selected. -/
theorem decode_sound {w : OpWord} (h : decode ctx w = .ok i) :
    WellFormed i ∧ selectedIn ctx i = true ∧ ∃ w', encode i = some w' := by
  cases w with
  | dec key =>
    obtain ⟨henc, hwf, hsel⟩ := decode_dec_sound h
    exact ⟨hwf, hsel, _, henc⟩
  | top pair => rcases decodeTop_cases h with rfl | rfl <;> exact ⟨rfl, rfl, _, rfl⟩
  | eng pair din => rcases decodeEng_cases h with rfl | rfl | rfl <;> exact ⟨rfl, rfl, _, rfl⟩

/-! ### The obligations on words -/

/-- Settles O43 (30_encoding.md section 4). -/
theorem decodeOfEncode : Obligations.DecodeOfEncode :=
  fun _ _ _ => decode_encode

/-- Settles O44 (30_encoding.md section 4). -/
theorem encodeOfDecode : Obligations.EncodeOfDecode := by
  refine ⟨fun _ _ _ => decode_dec_sound, fun ctx w i h => ?_⟩
  obtain ⟨hwf, hsel, w', henc⟩ := decode_sound h
  exact ⟨hwf, w', henc, decode_encode hwf henc hsel⟩

/-- Settles O45 (30_encoding.md R73). -/
theorem reservedEncodingsSelectNothing : Obligations.ReservedEncodingsSelectNothing :=
  ⟨fun _ _ => decode_reservedStateCode, stateCode_ne_reserved, rfl, fun _ => decode_accumulatingPayload_full,
    fun ctx din => decode_crcClr ctx din true⟩

/-- Settles O46 (30_encoding.md section 4): each word is evaluated against the map. -/
theorem sampleWordsDecode : Obligations.SampleWordsDecode :=
  ⟨rfl, rfl, rfl, rfl, rfl, rfl, rfl, rfl⟩

end Sys2Proof

namespace Sys2Proof.Machine

/-! ### The row of a byte in a legal state -/

/-- Settles O34 (41_frame_decoder.md section 5): the register that the row compares with is the check value. -/
theorem oneChecksumByteValidates : Obligations.OneChecksumByteValidates := by
  intro s hl hs b
  have hctx : s.decodeContext.crc = s.checkValue := hl.crc_eq_checkValue hs
  rw [hs, decode_awaitChecksum, hctx]
  simp only [checksumMatches, beq_iff_eq]

/-- Of two rows that exclude each other and one of which applies, one is left. -/
theorem filter_pair {α : Type} {p : α → Bool} {a b : α} (h : p b = !p a) : ∃ r, [a, b].filter p = [r] := by
  cases ha : p a <;> simp [ha, h]

/-- The rows of one control state. -/
def rowsOf (st : ControlState) : List KeyRow := keyRows.filter fun r => keyState r.pattern == stateCode st

/-- Only the rows of a key's own control state can apply. -/
theorem rowsApplying_decodeKey (ctx : DecodeContext) (st : ControlState) (b : Byte) :
    rowsApplying ctx (decodeKey st b) = (rowsOf st).filter fun r => r.applies ctx (decodeKey st b) := by
  rw [rowsApplying, rowsOf, List.filter_filter]
  refine List.filter_congr fun r hr => ?_
  cases happ : r.applies ctx (decodeKey st b)
  · rfl
  · simp [keyState_pattern_of_applies hr happ]

/-- In a legal count `payloadCount + 1` is at most the length, so one of the conditions of R111 and R112 holds. -/
theorem lastPayload_eq_not_morePayload {count len : Half} (h : count.toNat < len.toNat) :
    lastPayload count len = !morePayload count len := by
  rw [lastPayload, morePayload, ← decide_not, decide_eq_decide]
  omega

theorem lengthZero_eq_not_lengthNonZero (high b : Byte) : (b == 0#8 && lengthZero high) = !lengthNonZero high b := by
  rw [lengthZero, lengthNonZero, Bool.not_or, Bool.and_comm, bne, bne, Bool.not_not, Bool.not_not]

/-- In a legal state one row applies: a control state has one row without a condition, or two with opposite ones. -/
theorem exists_row {s : State} (hl : s.Legal) (b : Byte) :
    ∃ r, rowsApplying s.decodeContext (decodeKey s.state b) = [r] := by
  rw [rowsApplying_decodeKey]
  cases hs : s.state
  case idle | awaitFirstHeaderByte | awaitSecondHeaderByte =>
    refine filter_pair ?_
    simp only [applies_stateMask, applies_wholeMask, Bool.and_true]
    rfl
  case awaitLengthHigh =>
    refine ⟨_, List.filter_eq_self (l := [_]).mpr ?_⟩
    simp only [List.mem_singleton, forall_eq, applies_stateMask, Bool.and_true]
    rfl
  case awaitLengthLow =>
    refine filter_pair ?_
    simp only [applies_stateMask, applies_wholeMask, Bool.and_true]
    exact lengthZero_eq_not_lengthNonZero s.lengthHighByte b
  case accumulatingPayload =>
    refine filter_pair ?_
    simp only [applies_stateMask, Bool.and_true]
    exact lastPayload_eq_not_morePayload (hl.count_lt hs)
  case awaitChecksum =>
    refine filter_pair ?_
    simp only [applies_stateMask]
    rfl

/-- The decoder answers the operation of the one row that applies. -/
theorem decode_of_rowsApplying {ctx : DecodeContext} {key : BitVec 11} {r : KeyRow} (h : rowsApplying ctx key = [r]) :
    decode ctx (.dec key) = .ok (r.instr (keyByte key)) := by
  rw [decode, decodeDec, h]

/-- Settles O40 (30_encoding.md section 4). -/
theorem exactlyOneRowApplies : Obligations.ExactlyOneRowApplies := by
  intro s b hl
  obtain ⟨r, hr⟩ := exists_row hl b
  exact ⟨r, hr, by rw [decode_of_rowsApplying hr, keyByte_decodeKey]⟩

/-- In a legal state every byte selects an operation. -/
theorem exists_decode {s : State} (hl : s.Legal) (b : Byte) :
    ∃ i, decode s.decodeContext (.dec (decodeKey s.state b)) = .ok i := by
  obtain ⟨r, hr⟩ := exists_row hl b
  exact ⟨_, decode_of_rowsApplying hr⟩

end Sys2Proof.Machine
end

section
/-! The operations, all of them at once: where a DEC operation has its meaning, the next state of each, and from that what
each changes and leaves unchanged. -/

namespace Sys2Proof.Machine

variable {s t : State} {i : Instr} {key : BitVec 11} {b : Byte}

/-! ### Where a DEC operation has its meaning -/

/-- The operation's row of 30_encoding.md R70 applies in the state: its control state, its byte, its register condition. -/
structure Selected (i : Instr) (key : BitVec 11) (s : State) : Prop where
  state : keyState key = stateCode s.state
  wellFormed : WellFormed i
  registers : selectedIn s.decodeContext i = true

theorem selected_iff (i : Instr) (key : BitVec 11) (s : State) :
    Selected i key s ↔
      keyState key = stateCode s.state ∧ WellFormed i ∧ selectedIn s.decodeContext i = true :=
  ⟨fun ⟨hstate, hwf, hregs⟩ => ⟨hstate, hwf, hregs⟩, fun ⟨hstate, hwf, hregs⟩ => ⟨hstate, hwf, hregs⟩⟩

/-- Selected is what the decoder answers. -/
theorem selected_iff_decode (henc : encode i = some (.dec key)) :
    Selected i key s ↔ keyState key = stateCode s.state ∧ decode s.decodeContext (.dec key) = .ok i := by
  rw [selected_iff, decode_dec_iff henc]

theorem selected_decodeKey_iff (i : Instr) (st : ControlState) (b : Byte) (s : State) :
    Selected i (decodeKey st b) s ↔ s.state = st ∧ WellFormed i ∧ selectedIn s.decodeContext i = true := by
  rw [selected_iff, keyState_decodeKey, stateCode_inj, eq_comm]

/-- The guard of every DEC operation is its selection, and where it is open the effect completes. -/
theorem exec_dec_eq_perform (henc : encode i = some (.dec key)) (s : State) :
    ∃ c e, exec i s = perform c s e ∧ (c = true ↔ Selected i key s) ∧ (s.Legal → c = true → ∃ t, e = .next t) := by
  cases i <;> cases henc
  case idleHit | idleMiss | h1Hit | h1Miss | h2Hit | h2Miss | lenh | lenlNz | lenlZ | ckBad =>
    refine ⟨_, _, rfl, ?_, fun _ _ => ⟨_, rfl⟩⟩
    simp [selected_decodeKey_iff, WellFormed, illFormed?, selectedIn, State.decodeContext]
  case payMore | payLast =>
    refine ⟨_, _, rfl, ?_, fun hl hc => ?_⟩
    · simp [selected_decodeKey_iff, WellFormed, illFormed?, selectedIn, State.decodeContext]
    · obtain ⟨hs, -⟩ : s.state = .accumulatingPayload ∧ _ := by simpa using hc
      exact ⟨_, by rw [hl.append hs, orFault_ok]⟩
  case ckOk b =>
    refine ⟨_, _, rfl, ?_, fun hl _ => ⟨_, by rw [hl.readPayload, orFault_ok]⟩⟩
    simp [selected_decodeKey_iff, WellFormed, illFormed?, selectedIn, State.decodeContext]

theorem exec_dec_completes (henc : encode i = some (.dec key)) (hl : s.Legal) (hsel : Selected i key s) :
    ∃ t, exec i s = .next t := by
  obtain ⟨c, e, hexec, hc, hnext⟩ := exec_dec_eq_perform henc s
  obtain ⟨t, rfl⟩ := hnext hl (hc.mpr hsel)
  exact ⟨t, hexec.trans (perform_selected _ hl (hc.mpr hsel))⟩

theorem exec_dec_notSelected (henc : encode i = some (.dec key)) (hl : s.Legal) (hsel : ¬ Selected i key s) :
    exec i s = .refused .notSelected := by
  obtain ⟨c, e, hexec, hc, -⟩ := exec_dec_eq_perform henc s
  rcases perform_cases c s e with ⟨_, hopen, _⟩ | ⟨_, _, hrefused⟩ | ⟨hillegal, _⟩
  · exact absurd (hc.mp hopen) hsel
  · exact hexec.trans hrefused
  · exact absurd hl hillegal

theorem exec_dec_outsideReachable (henc : encode i = some (.dec key)) (hl : ¬ s.Legal) :
    exec i s = .refused .outsideReachable := by
  obtain ⟨c, e, hexec, -, -⟩ := exec_dec_eq_perform henc s
  rcases perform_cases c s e with ⟨hlegal, _⟩ | ⟨hlegal, _⟩ | ⟨_, hrefused⟩
  · exact absurd hlegal hl
  · exact absurd hlegal hl
  · exact hexec.trans hrefused

/-- A DEC operation answers a state only where it is selected in legal registers. -/
theorem exec_dec_next (henc : encode i = some (.dec key)) (h : exec i s = .next t) : s.Legal ∧ Selected i key s := by
  obtain ⟨c, e, hexec, hc, -⟩ := exec_dec_eq_perform henc s
  obtain ⟨hl, hopen, -⟩ := perform_next (hexec.symm.trans h)
  exact ⟨hl, hc.mp hopen⟩

/-- Settles O41 (30_encoding.md section 4; assumption log 6). -/
theorem meaningsFollowTheMap : Obligations.MeaningsFollowTheMap := by
  intro i key s hl henc
  rw [← selected_iff_decode henc]
  exact ⟨exec_dec_completes henc hl, exec_dec_notSelected henc hl⟩

/-- Settles O42 (93_implementation_defined.md U3; assumption log 5). -/
theorem outsideReachableRefused : Obligations.OutsideReachableRefused :=
  fun _ _ _ hl henc => exec_dec_outsideReachable henc hl

/-! ### No operation is a fault -/

theorem exec_dec_ne_fault (henc : encode i = some (.dec key)) (s : State) (f : Fault) : exec i s ≠ .fault f := by
  obtain ⟨c, e, hexec, -, hnext⟩ := exec_dec_eq_perform henc s
  rcases perform_cases c s e with ⟨hl, hc, he⟩ | ⟨-, -, he⟩ | ⟨-, he⟩ <;> rw [hexec, he]
  · obtain ⟨t, rfl⟩ := hnext hl hc
    simp
  · simp
  · simp

theorem exec_encodeFrame_ne_fault (payload : List Byte) (s : State) (f : Fault) :
    exec (.encodeFrame payload) s ≠ .fault f := by
  change execEncodeFrame payload s ≠ .fault f
  unfold execEncodeFrame
  split
  · simp
  · cases Config.oversizePolicy <;> simp

/-- The buffer primitives can fault (20_memory.md R42, R43), but no meaning reaches one that does. -/
theorem exec_ne_fault (i : Instr) (s : State) (f : Fault) : exec i s ≠ .fault f := by
  cases i
  case reset | decHold | crcClr | crcByte | crcHold | crcBit | crcCompute => exact fun h => nomatch h
  case encodeFrame payload => exact exec_encodeFrame_ne_fault payload s f
  all_goals exact exec_dec_ne_fault rfl s f

/-! ### The next state of every operation -/

/-- What the operation makes of a state in which it answers one. -/
def nextState : Instr → State → State
  | .idleHit, s => acceptFirstHeader s
  | .idleMiss _, s => s.begin.goto .awaitFirstHeaderByte
  | .h1Hit, s => acceptFirstHeader s
  | .h1Miss _, s => s.begin
  | .h2Hit, s => acceptSecondHeader s
  | .h2Miss _, s => s.begin.fullReset
  | .lenh b, s => acceptLengthHigh b s
  | .lenlNz b, s => acceptLengthLow b s
  | .lenlZ, s => acceptLengthLow 0x00#8 s
  | .payMore b, s => acceptPayloadByte b s
  | .payLast b, s => acceptPayloadByte b s
  | .ckOk _, s => s.begin.fullReset.emit s.payload
  | .ckBad _, s => s.begin.fullReset
  | .reset, s => s.begin.fullReset
  | .decHold, s => s.begin
  | .crcClr, s => s.begin.clearCrc
  | .crcByte din, s => s.begin.absorb din
  | .crcHold, s => s.begin
  | .crcBit, s => s.begin.shiftCrc
  | .crcCompute bytes, s => bytes.foldl (fun t b => t.absorb b) s.begin.clearCrc
  | .encodeFrame payload, s => { s.begin with encFrame := some (frameOf payload) }

theorem exec_encodeFrame_next {payload : List Byte} (h : exec (.encodeFrame payload) s = .next t) :
    t = { s.begin with encFrame := some (frameOf payload) } := by
  change execEncodeFrame payload s = .next t at h
  unfold execEncodeFrame at h
  split at h
  · exact (Host.Outcome.next.inj h).symm
  · split at h
    · exact (Host.Outcome.next.inj h).symm
    · cases h

/-- Two answers of one operation are the same state. -/
theorem eq_of_exec_next {u : State} (h : exec i s = .next t) (hu : exec i s = .next u) : t = u :=
  Host.Outcome.next.inj (h.symm.trans hu)

theorem state_eq_of_selected {st : ControlState} (h : Selected i (decodeKey st b) s) : s.state = st :=
  ((selected_decodeKey_iff i st b s).mp h).1

/-- All that an operation can do: where it answers a state, it is this one. -/
theorem exec_next (h : exec i s = .next t) : t = nextState i s := by
  cases i
  case reset | decHold | crcClr | crcByte | crcHold | crcBit | crcCompute => exact (Host.Outcome.next.inj h).symm
  case encodeFrame payload => exact exec_encodeFrame_next h
  case idleHit | idleMiss | h1Hit | h1Miss | h2Hit | h2Miss | lenh | ckBad => exact perform_next_eq h
  all_goals obtain ⟨hl, hsel⟩ := exec_dec_next rfl h
  case lenlNz b => exact eq_of_exec_next h (exec_lenlNz hl (state_eq_of_selected hsel) hsel.registers)
  case lenlZ => exact eq_of_exec_next h (exec_lenlZ hl (state_eq_of_selected hsel) (beq_iff_eq.mp hsel.registers))
  case payMore b =>
    exact eq_of_exec_next h (exec_payMore hl (state_eq_of_selected hsel) (of_decide_eq_true hsel.registers))
  case payLast b =>
    exact eq_of_exec_next h (exec_payLast hl (state_eq_of_selected hsel) (of_decide_eq_true hsel.registers))
  case ckOk b =>
    obtain ⟨p, hread, rfl⟩ := exec_ckOk_next h
    obtain rfl : s.payload = p := Except.ok.inj (hl.readPayload.symm.trans hread)
    rfl

/-! ### The buffer -/

/-- An operation that neither appends nor resets. -/
theorem nextState_keeps_buffer
    (hother : ∀ b, i ≠ .payMore b ∧ i ≠ .payLast b ∧ i ≠ .ckOk b ∧ i ≠ .ckBad b ∧ i ≠ .h2Miss b) (hreset : i ≠ .reset)
    (s : State) : (nextState i s).payloadBuffer = s.payloadBuffer ∧ (nextState i s).payloadCount = s.payloadCount := by
  cases i
  case payMore b | payLast b | ckOk b | ckBad b | h2Miss b => simpa using hother b
  case reset => exact absurd rfl hreset
  case crcCompute bytes =>
    rw [nextState, foldl_absorb]
    exact ⟨rfl, rfl⟩
  all_goals exact ⟨rfl, rfl⟩

/-- Settles O31 (20_memory.md section 1). -/
theorem otherOperationsKeepBuffer : Obligations.OtherOperationsKeepBuffer := by
  intro i s t h hother hreset
  obtain ⟨hbuffer, hcount⟩ := nextState_keeps_buffer hother hreset s
  rw [exec_next h]
  exact ⟨fun a => by rw [hbuffer], hcount⟩

/-- PAY.MORE and PAY.LAST do the same to the buffer, and only in AccumulatingPayload. -/
theorem exec_payMore_or_payLast_next (h : exec (.payMore b) s = .next t ∨ exec (.payLast b) s = .next t) :
    s.Legal ∧ s.state = .accumulatingPayload ∧ t = acceptPayloadByte b s := by
  rcases h with h | h
  all_goals
    obtain ⟨hl, hsel⟩ := exec_dec_next rfl h
    exact ⟨hl, state_eq_of_selected hsel, exec_next h⟩

/-- The append at the end of a legal buffer is the write at the count (20_memory.md R42). -/
theorem acceptPayloadByte_payloadBuffer (hl : s.Legal) (b : Byte) :
    (acceptPayloadByte b s).payloadBuffer = s.payloadBuffer.write s.payloadCount.toNat b := by
  refine (Memory.write_above _ _ _ fun a ha => ?_).symm
  rw [hl.indices] at ha
  exact List.mem_range.mp ha

/-- Settles O30 (20_memory.md section 1): the laws of read after write, at the count and at every other index. -/
theorem payloadStoreFrame : Obligations.PayloadStoreFrame := by
  intro s t b h
  obtain ⟨hl, hs, rfl⟩ := exec_payMore_or_payLast_next h
  have hcount := acceptPayloadByte_count hl hs b
  rw [acceptPayloadByte_payloadBuffer hl]
  refine ⟨Memory.read_write_same _ _ _, fun i hi => Memory.read_write_other _ _ _ _ hi, acceptPayloadByte_payload b s,
    hcount, ?_, rfl, rfl, rfl⟩
  rw [hcount]
  exact hl.count_lt hs

/-! ### The result -/

/-- CK.OK alone has a result. -/
theorem nextState_out {p : List Byte} (h : (nextState i s).out = some p) : ∃ b, i = .ckOk b ∧ p = s.payload := by
  cases i
  case ckOk b => exact ⟨b, rfl, (Option.some.inj h).symm⟩
  case crcCompute bytes =>
    rw [nextState, foldl_absorb] at h
    cases h
  all_goals cases h

/-- Settles O36 (41_frame_decoder.md section 6): CK.OK answers a state only where it is selected, and the register it is
selected by is the check value. -/
theorem emissionOnlyFromChecksumOk : Obligations.EmissionOnlyFromChecksumOk := by
  intro i s t p h hout
  rw [exec_next h] at hout
  obtain ⟨b, rfl, rfl⟩ := nextState_out hout
  obtain ⟨hl, hsel⟩ := exec_dec_next rfl h
  have hs := state_eq_of_selected hsel
  have hb : b = s.crc := beq_iff_eq.mp hsel.registers
  exact ⟨b, rfl, hl, hs, hb.trans (hl.crc_eq_checkValue hs), rfl⟩

/-! ### The register -/

/-- What an operation with a word makes of `crc` is the command it drives on ENG's ports (30_encoding.md section 2). -/
theorem nextState_crc {w : OpWord} (henc : encode i = some w) (s : State) :
    (nextState i s).crc = engNext (engPorts i) s.crc := by
  cases i
  case crcBit | crcCompute | encodeFrame => cases henc
  all_goals rfl

/-- The command that ENG's decoder reads from its ports, performed by itself. -/
theorem exists_exec_engWord (p : EngPorts) (s : State) :
    ∃ (j : Instr) (u : State),
      decode s.decodeContext (engWord p) = .ok j ∧ exec j s = .next u ∧ u.crc = engNext p s.crc := by
  obtain ⟨clr, en, din⟩ := p
  cases clr
  · cases en
    · exact ⟨.crcHold, _, decode_engWord _ _, rfl, rfl⟩
    · exact ⟨.crcByte din, _, decode_engWord _ _, rfl, rfl⟩
  · exact ⟨.crcClr, _, decode_engWord _ _, rfl, rfl⟩

/-- Settles O59 (30_encoding.md section 2; assumption logs 9 and 14). -/
theorem engCommandsHappenInsideOperations : Obligations.EngCommandsHappenInsideOperations := by
  intro i w s t henc h
  have hcrc : t.crc = engNext (engPorts i) s.crc := by rw [exec_next h, nextState_crc henc]
  obtain ⟨j, u, hdecode, hexec, hu⟩ := exists_exec_engWord (engPorts i) s
  exact ⟨hcrc, j, u, hdecode, hexec, hu.trans hcrc.symm⟩

end Sys2Proof.Machine
end

section
/-! The step (00_scope.md R10, 41_frame_decoder.md R101): it performs the operation its word selects, which is one consume,
one RESET or one DEC.HOLD, and from that what holds of every step. -/

namespace Sys2Proof.Machine

variable {s t : State} {b : Byte} {i : Instr}

/-! ### The word of a step -/

theorem fetch_of_pending {v : Stimulus} {rest : List Stimulus} (hp : s.pending = v :: rest) :
    s.fetch = wordOf s.state v := by
  rw [State.fetch, State.stimulus, hp]

theorem fetch_of_pending_nil (hp : s.pending = []) : s.fetch = .top (portPair false false) := by
  rw [State.fetch, State.stimulus, hp]
  rfl

theorem advance_of_pending {v : Stimulus} {rest : List Stimulus} (hp : s.pending = v :: rest) :
    s.advance = { s with pending := rest } := by
  rw [State.advance, hp, List.tail_cons]

theorem step_of_fetch_decode (h : decode s.decodeContext s.fetch = .ok i) : step s = exec i s.advance := by
  rw [step, h]

theorem step_of_fetch_error {e : DecodeError} (h : decode s.decodeContext s.fetch = .error e) :
    step s = .refused (.undecodable e) := by
  rw [step, h]

/-- Settles O47 (41_frame_decoder.md R101, 30_encoding.md R68; assumption logs 1 and 5). -/
theorem stepRunsDecodedOperation : Obligations.StepRunsDecodedOperation := by
  refine ⟨fun _ _ => step_of_fetch_decode, fun _ _ => step_of_fetch_error, fun _ _ _ hp => fetch_of_pending hp,
    fun _ _ _ _ hp => fetch_of_pending hp, fun s b rest hp => ?noByte⟩
  case noByte =>
    rcases hp with hp | hp
    · exact fetch_of_pending hp
    · exact fetch_of_pending_nil hp

/-! ### The three kinds of step -/

theorem step_rst {inValid : Bool} {rest : List Stimulus} (hp : s.pending = .top true inValid b :: rest) :
    step s = exec .reset { s with pending := rest } :=
  step_of_decode hp (decode_rst _ inValid)

theorem step_noByte {rest : List Stimulus} (hp : s.pending = .top false false b :: rest) :
    step s = exec .decHold { s with pending := rest } :=
  step_of_decode hp (decode_noByte _)

theorem step_byte {rest : List Stimulus} (hp : s.pending = .top false true b :: rest) :
    step s = consume b { s with pending := rest } := by
  rw [step, fetch_of_pending hp, advance_of_pending hp]
  rfl

theorem step_pending_nil (hp : s.pending = []) : step s = exec .decHold s := by
  have hadvance : s.advance = s := by rw [State.advance, hp, List.tail_nil, ← hp]
  rw [step, fetch_of_pending_nil hp, decode_noByte, hadvance]

theorem step_of_pending {v : Stimulus} {rest : List Stimulus} (hp : s.pending = v :: rest) :
    step s =
      if v.rst then exec .reset { s with pending := rest }
      else if v.inValid then consume v.inByte { s with pending := rest }
      else exec .decHold { s with pending := rest } := by
  obtain ⟨rst, inValid, inByte⟩ := v
  cases rst
  · cases inValid
    · exact step_noByte hp
    · exact step_byte hp
  · exact step_rst hp

/-- All that a step can be: RESET, DEC.HOLD or one consume, on the state with the port values used up. -/
theorem step_cases (s : State) :
    step s = exec .reset s.advance ∨ step s = exec .decHold s.advance ∨ ∃ b, step s = consume b s.advance := by
  cases hp : s.pending with
  | nil =>
    have hadvance : s.advance = s := by rw [State.advance, hp, List.tail_nil, ← hp]
    exact .inr (.inl (by rw [hadvance, step_pending_nil hp]))
  | cons v rest =>
    rw [step_of_pending hp, ← advance_of_pending hp]
    split
    · exact .inl rfl
    · split
      · exact .inr (.inr ⟨v.inByte, rfl⟩)
      · exact .inr (.inl rfl)

/-- What a step selects: the decoder reads a control state's key, or a pair of top-level ports. -/
theorem decode_fetch_cases (h : decode s.decodeContext s.fetch = .ok i) :
    i = .reset ∨ i = .decHold ∨ ∃ b : Byte, encode i = some (.dec (decodeKey s.state b)) := by
  rw [State.fetch, wordOf] at h
  split at h
  · exact .inr (.inr ⟨_, (decode_dec_sound h).1⟩)
  · exact (decodeTop_cases h).imp_right .inl

/-- Settles O58 (00_scope.md R10, 92_eei_decisions.md D3; assumption log 1). -/
theorem stepsAreConsumeResetHold : Obligations.StepsAreConsumeResetHold :=
  ⟨fun _ _ _ => step_of_pending, fun _ => step_pending_nil, fun _ _ => decode_fetch_cases⟩

/-! ### What every step keeps -/

theorem consume_ne_fault (b : Byte) (s : State) (f : Fault) : consume b s ≠ .fault f := by
  rw [consume_eq]
  split
  · exact exec_ne_fault _ s f
  · exact fun h => nomatch h

/-- Settles O38 (60_exceptions.md R150). -/
theorem nothingFaults : Obligations.NothingFaults := by
  refine ⟨exec_ne_fault, fun s f => ?_⟩
  rcases step_cases s with hstep | hstep | ⟨b, hstep⟩ <;> rw [hstep]
  · exact exec_ne_fault _ _ f
  · exact exec_ne_fault _ _ f
  · exact consume_ne_fault b _ f

/-- In a legal state every step completes and leads to a legal state. -/
theorem State.Legal.step (hl : s.Legal) : ∃ t, step s = .next t ∧ t.Legal := by
  have hadvance : s.advance.Legal := hl
  rcases step_cases s with hstep | hstep | ⟨b, hstep⟩ <;> rw [hstep]
  · exact ⟨_, exec_reset _, legal_of_reset _⟩
  · exact ⟨s.advance.begin, rfl, hl⟩
  · exact hadvance.consume b

/-- Settles O39 (70_reset_and_hazards.md R183). -/
theorem everyStepCompletes : Obligations.EveryStepCompletes :=
  ⟨fun _ hl => hl.step.imp fun _ => And.left, fun _ b hl => (hl.consume b).imp fun _ => And.left⟩

/-- Settles O49 (41_frame_decoder.md R117). -/
theorem stepKeepsSound : Obligations.StepKeepsSound := by
  intro s t hl h
  obtain ⟨u, hstep, hu⟩ := hl.step
  obtain rfl := Host.Outcome.next.inj (h.symm.trans hstep)
  exact hu

/-- A legal buffer lists the indices below a 16-bit count, so it is in canonical form (20_memory.md R41). -/
theorem State.Legal.payloadBuffer_wf (hl : s.Legal) : s.payloadBuffer.wf = true :=
  Memory.wf_of_range _ _ hl.indices (Nat.le_of_lt_succ s.payloadCount.isLt)

/-- A byte's operation answers a state only from a legal one. -/
theorem legal_of_consume_next (h : consume b s = .next t) : s.Legal ∧ t.Legal := by
  cases hdecode : decode s.decodeContext (.dec (decodeKey s.state b)) with
  | error e =>
    rw [consume_eq, hdecode] at h
    cases h
  | ok i =>
    have hexec : exec i s = .next t := (consume_of_decode hdecode).symm.trans h
    obtain ⟨hl, -⟩ := exec_dec_next (decode_dec_sound hdecode).1 hexec
    obtain ⟨u, hu, hlegal⟩ := hl.consume b
    obtain rfl := Host.Outcome.next.inj (h.symm.trans hu)
    exact ⟨hl, hlegal⟩

/-- Settles O50 (20_memory.md section 1; assumption log 7): RESET empties the buffer, DEC.HOLD keeps it, and a byte is
consumed in legal registers only, which it leads to again. -/
theorem stepKeepsBufferCanonical : Obligations.StepKeepsBufferCanonical := by
  intro s t hwf h
  rcases step_cases s with hstep | hstep | ⟨b, hstep⟩ <;> rw [hstep] at h
  · obtain rfl := Host.Outcome.next.inj h
    rfl
  · obtain rfl := Host.Outcome.next.inj h
    exact hwf
  · exact (legal_of_consume_next h).2.payloadBuffer_wf

/-- Settles O48 (10_state.md R34). -/
theorem resetMeetsInvariants : Obligations.ResetMeetsInvariants :=
  ⟨legal_of_reset [], rfl, (legal_of_reset []).reachableRegisters⟩

/-! ### Steps without a byte -/

/-- Any number of steps with nothing pending. -/
theorem runSteps_pending_nil (n : Nat) (s : State) (hp : s.pending = []) :
    ∃ t, runSteps n s = .next (t, []) ∧ sameRegisters s t := by
  induction n generalizing s with
  | zero => exact ⟨s, rfl, rfl, rfl, rfl, rfl, rfl, rfl⟩
  | succ n ih =>
    obtain ⟨t, hrun, hsame⟩ := ih s.begin hp
    have hstep : step s = .next s.begin := step_pending_nil hp
    exact ⟨t, by simp only [runSteps, hstep, hrun]; rfl, hsame⟩

/-- Settles O21 (41_frame_decoder.md R128; assumption log 13). -/
theorem holdChangesNothing : Obligations.HoldChangesNothing :=
  ⟨fun _ => rfl, fun _ _ _ => step_noByte, runSteps_pending_nil⟩

/-! ### The labels -/

/-- The label of a byte's step in a legal state (60_exceptions.md R154). -/
def byteLabel (b : Byte) (s : State) : Label :=
  match s.state with
  | .awaitSecondHeaderByte => if b = Config.hdr1 then .none else .headerMismatch
  | .awaitChecksum => if b = s.checkValue then .emit else .checksumMismatch
  | .idle | .awaitFirstHeaderByte | .awaitLengthHigh | .awaitLengthLow | .accumulatingPayload => .none

theorem stepLabel_of_decode {rest : List Stimulus} (hp : s.pending = .top false true b :: rest)
    (h : decode s.decodeContext (.dec (decodeKey s.state b)) = .ok i) : s.stepLabel = some (labelOf i) := by
  have hfetch : s.fetch = .dec (decodeKey s.state b) := fetch_of_pending hp
  rw [State.stepLabel, hfetch, h]

theorem labelOf_eq_byteLabel (hl : s.Legal) (h : decode s.decodeContext (.dec (decodeKey s.state b)) = .ok i) :
    labelOf i = byteLabel b s := by
  unfold byteLabel
  cases hs : s.state
  case idle | awaitFirstHeaderByte | awaitLengthLow =>
    simp only [hs, decode_idle, decode_awaitFirstHeaderByte, decode_awaitLengthLow] at h
    obtain rfl := Except.ok.inj h
    split <;> rfl
  case awaitSecondHeaderByte =>
    rw [hs, decode_awaitSecondHeaderByte] at h
    obtain rfl := Except.ok.inj h
    exact apply_ite labelOf _ _ _
  case awaitLengthHigh =>
    rw [hs, decode_awaitLengthHigh] at h
    obtain rfl := Except.ok.inj h
    rfl
  case accumulatingPayload =>
    rw [hs, decode_accumulatingPayload] at h
    split at h
    · obtain rfl := Except.ok.inj h
      rfl
    · split at h
      · obtain rfl := Except.ok.inj h
        rfl
      · cases h
  case awaitChecksum =>
    rw [oneChecksumByteValidates s hl hs b] at h
    obtain rfl := Except.ok.inj h
    exact apply_ite labelOf _ _ _

theorem byteLabel_eq_headerMismatch_iff (b : Byte) (s : State) :
    byteLabel b s = .headerMismatch ↔ s.state = .awaitSecondHeaderByte ∧ b ≠ Config.hdr1 := by
  unfold byteLabel
  cases s.state <;> simp [ite_eq_iff]

theorem byteLabel_eq_checksumMismatch_iff (b : Byte) (s : State) :
    byteLabel b s = .checksumMismatch ↔ s.state = .awaitChecksum ∧ b ≠ s.checkValue := by
  unfold byteLabel
  cases s.state <;> simp [ite_eq_iff]

theorem byteLabel_eq_emit_iff (b : Byte) (s : State) :
    byteLabel b s = .emit ↔ s.state = .awaitChecksum ∧ b = s.checkValue := by
  unfold byteLabel
  cases s.state <;> simp [ite_eq_iff]

/-- Settles O37 (60_exceptions.md R151, R152, R154). -/
theorem labelsOfByteSteps : Obligations.LabelsOfByteSteps := by
  intro s b rest hl hp
  obtain ⟨i, hi⟩ := exists_decode hl b
  have hlabel : s.stepLabel = some (byteLabel b s) := by
    rw [stepLabel_of_decode hp hi, labelOf_eq_byteLabel hl hi]
  simp only [hlabel, Option.some.injEq]
  exact ⟨byteLabel_eq_headerMismatch_iff b s, byteLabel_eq_checksumMismatch_iff b s, byteLabel_eq_emit_iff b s,
    Option.some_ne_none _⟩

end Sys2Proof.Machine
end

section
/-! The reference decoder (41_frame_decoder.md R115, R120): every byte's step is its step, and its fields determine the
registers of a legal state, so that a run with steps without a byte and one without them end alike. -/

namespace Sys2Proof.Machine

variable {s t u : State} {b : Byte}

/-! ### The reference step by control state -/

theorem refConsume_headerSearch (hh : s.headerSearch = true) (b : Byte) :
    refConsume s.toRef b = refRow s.toRef b .awaitFirstHeaderByte := by
  rcases State.headerSearch_iff.mp hh with hs | hs <;> simp [refConsume, State.toRef, hs]

theorem refConsume_inFrame (hh : ¬ s.headerSearch = true) (b : Byte) :
    refConsume s.toRef b = refRow s.toRef b s.state := by
  have hs : s.state ≠ .idle := fun hs => hh (State.headerSearch_iff.mpr (.inl hs))
  simp [refConsume, State.toRef, hs]

/-! ### One byte -/

/-- The next state `t` of the byte, with its result, is the reference decoder's (R120). -/
structure RefinesRef (b : Byte) (s t : State) : Prop where
  pending : t.pending = s.pending
  toRef : t.toRef = (refConsume s.toRef b).1
  out : t.out = (refConsume s.toRef b).2

theorem refinesRef_of_refRow {p : RefState × Option (List Byte)} (hpending : t.pending = s.pending)
    (hrow : refConsume s.toRef b = p) (hp : p = (t.toRef, t.out)) : RefinesRef b s t := by
  subst hp
  exact ⟨hpending, by rw [hrow], by rw [hrow]⟩

/-- SP compares the length of the sequence, the block its count (R111, R112). -/
theorem refRow_accumulatingPayload (hl : s.Legal) (b : Byte) :
    refRow s.toRef b .accumulatingPayload = ((acceptPayloadByte b s).toRef, (acceptPayloadByte b s).out) := by
  have hlen : (s.payload ++ [b]).length = s.payloadCount.toNat + 1 := by
    rw [List.length_append, hl.payload_length, List.length_singleton]
  simp only [refRow, State.toRef, hlen, acceptPayloadByte_payload]
  rfl

/-- In every legal state every byte's next state is the reference decoder's. -/
theorem consume_refines (hl : s.Legal) (b : Byte) : ∃ t, consume b s = .next t ∧ RefinesRef b s t := by
  by_cases hh : s.headerSearch = true
  · have href := refConsume_headerSearch hh b
    by_cases hb : b = Config.hdr0
    · refine ⟨_, consume_headerSearch_hit hl hh hb, refinesRef_of_refRow rfl href ?_⟩
      exact if_pos hb
    · refine ⟨_, consume_headerSearch_miss hl hh hb, refinesRef_of_refRow rfl href ?_⟩
      exact if_neg hb
  · have href := refConsume_inFrame hh b
    cases hs : s.state <;> rw [hs] at href
    case idle => exact absurd (State.headerSearch_iff.mpr (.inl hs)) hh
    case awaitFirstHeaderByte => exact absurd (State.headerSearch_iff.mpr (.inr hs)) hh
    case awaitSecondHeaderByte =>
      by_cases hb : b = Config.hdr1
      · exact ⟨_, consume_awaitSecondHeaderByte_hit hl hs hb, refinesRef_of_refRow rfl href (if_pos hb)⟩
      · exact ⟨_, consume_awaitSecondHeaderByte_miss hl hs hb, refinesRef_of_refRow rfl href (if_neg hb)⟩
    case awaitLengthHigh => exact ⟨_, consume_awaitLengthHigh hl hs, refinesRef_of_refRow rfl href rfl⟩
    case awaitLengthLow => exact ⟨_, consume_awaitLengthLow hl hs, refinesRef_of_refRow rfl href rfl⟩
    case accumulatingPayload =>
      exact ⟨_, consume_accumulatingPayload hl hs, refinesRef_of_refRow rfl href (refRow_accumulatingPayload hl b)⟩
    case awaitChecksum =>
      by_cases hb : b = s.checkValue
      · exact ⟨_, consume_awaitChecksum_match hl hs hb,
          refinesRef_of_refRow rfl href (congrArg (Prod.mk refReset) (if_pos hb))⟩
      · exact ⟨_, consume_awaitChecksum_mismatch hl hs hb,
          refinesRef_of_refRow rfl href (congrArg (Prod.mk refReset) (if_neg hb))⟩

/-- Settles O52 (41_frame_decoder.md R115, R120). -/
theorem consumeRefinesReference : Obligations.ConsumeRefinesReference := by
  intro s b hl
  obtain ⟨t, ht, hrefines⟩ := consume_refines hl b
  exact ⟨t, ht, (legal_of_consume_next ht).2, hrefines.pending, hrefines.toRef, hrefines.out⟩

/-! ### The reference state determines the registers -/

theorem State.frameBytes_eq_of_toRef_eq (h : s.toRef = u.toRef) : s.frameBytes = u.frameBytes := by
  simp only [State.toRef, RefState.mk.injEq] at h
  obtain ⟨hstate, hhigh, hlen, hpayload⟩ := h
  simp only [State.frameBytes, hstate, hhigh, hlen, hpayload]

/-- In legal registers the count, the buffer and `crc` are functions of the reference decoder's fields (R116, R117). -/
theorem State.Legal.sameRegisters_of_toRef_eq (hl : s.Legal) (hu : u.Legal) (h : s.toRef = u.toRef) :
    sameRegisters s u := by
  have hcrc : s.crc = u.crc := by rw [hl.crc_eq, hu.crc_eq, State.frameBytes_eq_of_toRef_eq h]
  simp only [State.toRef, RefState.mk.injEq] at h
  obtain ⟨hstate, hhigh, hlen, hpayload⟩ := h
  have hcount : s.payloadCount = u.payloadCount :=
    BitVec.eq_of_toNat_eq (by rw [← hl.payload_length, ← hu.payload_length, hpayload])
  have hbuffer : s.payloadBuffer = u.payloadBuffer := by
    rw [List.zip_of_prod hl.indices hpayload, List.zip_of_prod hu.indices rfl, hcount]
    rfl
  exact ⟨hstate, hhigh, hlen, hbuffer, hcount, hcrc⟩

/-! ### Steps without a byte among the others -/

/-- A run taken apart after its first step. -/
theorem runSteps_succ {n : Nat} {emitted : List (List Byte)} (hstep : step s = .next t)
    (hrun : runSteps n t = .next (u, emitted)) : runSteps (n + 1) s = .next (u, t.out.toList ++ emitted) := by
  simp only [runSteps, hstep, hrun]

/-- Two legal states that the reference decoder does not tell apart. -/
structure AlikeToRef (s u : State) : Prop where
  left : s.Legal
  right : u.Legal
  toRef : s.toRef = u.toRef

theorem AlikeToRef.sameRegisters (h : AlikeToRef s u) : sameRegisters s u :=
  h.left.sameRegisters_of_toRef_eq h.right h.toRef

/-- The same byte in two such states: the results are equal and the next states are two such states again. -/
theorem AlikeToRef.consume (h : AlikeToRef s u) (b : Byte) :
    ∃ s' u', consume b s = .next s' ∧ consume b u = .next u' ∧ AlikeToRef s' u' ∧ s'.out = u'.out ∧
      s'.pending = s.pending ∧ u'.pending = u.pending := by
  obtain ⟨s', hs, hsref⟩ := consume_refines h.left b
  obtain ⟨u', hu, huref⟩ := consume_refines h.right b
  have htoRef : s'.toRef = u'.toRef := by rw [hsref.toRef, huref.toRef, h.toRef]
  have hout : s'.out = u'.out := by rw [hsref.out, huref.out, h.toRef]
  exact ⟨s', u', hs, hu, ⟨(legal_of_consume_next hs).2, (legal_of_consume_next hu).2, htoRef⟩, hout, hsref.pending,
    huref.pending⟩

/-- The same port values in two such states, where they are not those of DEC.HOLD. -/
theorem AlikeToRef.step {v : Stimulus} {p q : List Stimulus} (h : AlikeToRef s u) (hp : s.pending = v :: p)
    (hq : u.pending = v :: q) (hv : isHold v = false) :
    ∃ s' u', step s = .next s' ∧ step u = .next u' ∧ AlikeToRef s' u' ∧ s'.out = u'.out ∧
      s'.pending = p ∧ u'.pending = q := by
  obtain ⟨rst, inValid, b⟩ := v
  cases rst
  · obtain rfl : inValid = true := by simpa [isHold] using hv
    have hrest : AlikeToRef { s with pending := p } { u with pending := q } := ⟨h.left, h.right, h.toRef⟩
    rw [step_byte hp, step_byte hq]
    exact hrest.consume b
  · exact ⟨_, _, (step_rst hp).trans (exec_reset _), (step_rst hq).trans (exec_reset _),
      ⟨legal_of_reset p, legal_of_reset q, rfl⟩, rfl, rfl, rfl⟩

/-- The two runs side by side: a step without a byte moves the first alone, and to the reference decoder it does not move. -/
theorem runSteps_filter_hold (ports : List Stimulus) (h : AlikeToRef s u) (hp : s.pending = ports)
    (hq : u.pending = ports.filter fun v => !isHold v) :
    ∃ (s' u' : State) (emitted : List (List Byte)),
      runSteps ports.length s = .next (s', emitted) ∧
      runSteps (ports.filter fun v => !isHold v).length u = .next (u', emitted) ∧ sameRegisters s' u' := by
  induction ports generalizing s u with
  | nil => exact ⟨s, u, [], rfl, rfl, h.sameRegisters⟩
  | cons v rest ih =>
    cases hv : isHold v with
    | true =>
      obtain ⟨rst, inValid, b⟩ := v
      obtain ⟨rfl, rfl⟩ : rst = false ∧ inValid = false := by simpa [isHold] using hv
      rw [List.filter_cons_of_neg (by simp [hv])] at hq ⊢
      have hstep : step s = .next { s with pending := rest }.begin := step_noByte hp
      have hrest : AlikeToRef { s with pending := rest }.begin u := ⟨h.left, h.right, h.toRef⟩
      obtain ⟨s', u', emitted, hrun, hrun', hsame⟩ := ih hrest rfl hq
      exact ⟨s', u', emitted, runSteps_succ hstep hrun, hrun', hsame⟩
    | false =>
      rw [List.filter_cons_of_pos (by simp [hv])] at hq ⊢
      obtain ⟨s₁, u₁, hs₁, hu₁, h₁, hout, hp₁, hq₁⟩ := h.step hp hq hv
      obtain ⟨s', u', emitted, hrun, hrun', hsame⟩ := ih h₁ hp₁ hq₁
      exact ⟨s', u', _, runSteps_succ hs₁ hrun, hout ▸ runSteps_succ hu₁ hrun', hsame⟩

/-- Settles O57 (41_frame_decoder.md R126, R128): the two runs start in states that differ in what is pending alone. -/
theorem holdStepsAreInvisible : Obligations.HoldStepsAreInvisible :=
  fun ports _ hl => runSteps_filter_hold ports ⟨hl, hl, rfl⟩ rfl rfl

end Sys2Proof.Machine
end

section
/-! Streams with a wrong byte (41_frame_decoder.md section 7): what is lost, and that the next frame is decoded. -/

namespace Sys2Proof.Machine

variable {s t : State}

/-! ### The last byte of a frame -/

/-- The byte after the payload: it leaves the reset registers whatever it is, and emits where it is the check value. -/
theorem feed_checksumByte {len : Half} {payload : List Byte} (ht : t.AwaitsChecksumOf len payload) (c : Byte) :
    ∃ u, feed [c] t =
        .next (u, if c = crcCompute (frameHead len ++ payload) then [payload] else []) ∧
      u.Legal ∧ u.headerSearch = true ∧ sameRegisters u State.reset := by
  by_cases hc : c = crcCompute (frameHead len ++ payload)
  · have hstep := consume_awaitChecksum_match ht.legal ht.state (hc.trans ht.checkValue.symm)
    rw [if_pos hc, ← ht.payload]
    exact ⟨_, feed_cons hstep rfl, legal_of_reset t.pending, rfl, rfl, rfl, rfl, rfl, rfl, rfl⟩
  · have hstep := consume_awaitChecksum_mismatch ht.legal ht.state (fun h => hc (h.trans ht.checkValue))
    rw [if_neg hc]
    exact ⟨_, feed_cons hstep rfl, legal_of_reset t.pending, rfl, rfl, rfl, rfl, rfl, rfl, rfl⟩

theorem frameOf_dropLast (payload : List Byte) :
    (frameOf payload).dropLast = frameHead (lengthField payload.length) ++ payload := by
  rw [frameOf_eq_concat, List.dropLast_concat]

/-- A corruption changes the byte. -/
theorem xor_ne_self (c : Byte) {x : Byte} (hx : x ≠ 0x00#8) : c ^^^ x ≠ c := by
  simpa using hx

/-- A frame with a corrupted checksum byte emits nothing and leaves a full reset. -/
theorem feed_corrupted {payload : List Byte} {x : Byte} (hmax : payload.length ≤ 65535) (hx : x ≠ 0x00#8) (hl : s.Legal)
    (hh : s.headerSearch = true) :
    ∃ u, feed ((frameOf payload).dropLast ++ [crcCompute (frameOf payload).dropLast ^^^ x]) s = .next (u, []) ∧
      u.Legal ∧ u.headerSearch = true ∧ sameRegisters u State.reset := by
  rw [frameOf_dropLast]
  obtain ⟨t, hfeed, ht⟩ := feed_frameHead_payload (lengthField payload.length) payload hl hh (lengthField_toNat hmax).symm
  obtain ⟨u, hlast, hu⟩ := feed_checksumByte ht _
  rw [if_neg (xor_ne_self _ hx)] at hlast
  exact ⟨u, feed_append hfeed hlast, hu⟩

/-- Settles O54 (41_frame_decoder.md R125): after the corrupted frame the decoder is in header search, from which the next
frame makes its round trip. -/
theorem corruptedChecksumThenRecovery : Obligations.CorruptedChecksumThenRecovery := by
  intro payload nextPayload x s hmax hmaxNext hx hl hh
  obtain ⟨u, hbad, hu, huh, hreset⟩ := feed_corrupted hmax hx hl hh
  obtain ⟨⟨t, hnext, ht⟩, -⟩ := roundTrip nextPayload u hmaxNext hu huh
  exact ⟨⟨u, hbad, hreset⟩, t, feed_append hbad hnext, ht⟩

/-- Settles O56 (41_frame_decoder.md R127, 30_encoding.md R65). -/
theorem frameConsumedByCount : Obligations.FrameConsumedByCount := by
  intro s high low c payload hl hs hlen
  obtain ⟨t, hfeed, ht⟩ := feed_lengthAndPayload high low payload hl hs (by rw [hlen, assembleLength_toNat])
  obtain ⟨u, hlast, -, -, hreset⟩ := feed_checksumByte ht c
  have hhead : frameHead (assembleLength high low) = [0x55#8, 0xAA#8, high, low] := by
    rw [frameHead, lengthHigh_assembleLength, lengthLow_assembleLength]
    rfl
  rw [hhead] at hlast
  exact ⟨⟨u, feed_append hfeed hlast, hreset⟩, t, hfeed, ht.state, ht.payload⟩

/-! ### A stray first header byte -/

/-- The second 0x55 is no second header byte, and is not looked at again (R107, R122). -/
theorem feed_strayHeaderByte (hl : s.Legal) (hh : s.headerSearch = true) :
    feed [Config.hdr0, Config.hdr0] s = .next ({ State.reset with pending := s.pending }, []) := by
  have hmiss : consume Config.hdr0 (acceptFirstHeader s) = .next { State.reset with pending := s.pending } :=
    consume_awaitSecondHeaderByte_miss (acceptFirstHeader_legal hl hh) rfl (by decide)
  exact feed_cons (consume_headerSearch_hit hl hh rfl) (feed_cons hmiss rfl)

/-- Settles O55 (41_frame_decoder.md R122): what is left of the empty frame holds no 0x55. -/
theorem strayHeaderByteLosesFrame : Obligations.StrayHeaderByteLosesFrame := by
  intro s hl hh
  have hstray := feed_strayHeaderByte hl hh
  have hreset : State.Legal { State.reset with pending := s.pending } := legal_of_reset s.pending
  have hmiss : consume 0xAA#8 { State.reset with pending := s.pending } = _ :=
    consume_headerSearch_miss hreset rfl (by decide)
  obtain ⟨t, hrest, hsame⟩ := feed_headerSearch_misses [0x00#8, 0x00#8, 0x7D#8] _ (skip_legal hreset rfl) rfl (by decide)
  exact ⟨⟨_, hstray, rfl⟩, t, feed_append hstray (feed_cons hmiss hrest), hsame.1.symm⟩

end Sys2Proof.Machine
end
